-- ==== Sys2Proof/Word.lean ====
section
/-! DEFINITION. The sizes the spec gives its data (spec/00_scope.md R6, R8): bytes, 16-bit bounds, 32-bit result
registers, 16-byte blocks, the 26-byte frame, and the two short words that select operations (spec/30_encoding.md
R78, R81). -/

namespace Sys2Proof

/-- A byte (R8). -/
abbrev Byte := BitVec 8

/-- A range-bound register (R25). -/
abbrev Word16 := BitVec 16

/-- A result register `V0`..`V7` (R11). -/
abbrev Word32 := BitVec 32

/-- A 16-byte array in index order: KEY, IV, CBLK, DBLK, a round key (R6 `BLOCK`, `KEYLEN`). -/
abbrev Block := Vector Byte 16

/-- The 26 bytes of FRAME (R6 `FRAME_MAX`, R27). -/
abbrev FrameBytes := Vector Byte 26

/-- A four-byte word of the key schedule or a column of the cipher state (R114, R119). -/
abbrev Column := Vector Byte 4

/-- A host access word `d aaaaaaaa vvvvvvvv` (R78). -/
abbrev HostWord := BitVec 17

/-- A stage word: `STAGE[3:0]`, then `CFG.LAYOUT` in bit 0 (R81). -/
abbrev StageWord := BitVec 5

/-- The decrypted block as the 128-bit integer a block pattern is written over (R81). -/
abbrev BlockWord := BitVec 128

/-- Sixteen zero bytes. -/
def zeroBlock : Block := Vector.replicate 16 0

/-- A Boolean as one bit. -/
def bit (b : Bool) : BitVec 1 := BitVec.ofBool b

end Sys2Proof
end

