-- ==== Sys2Proof/Config.lean ====
section
/-! DEFINITION. The constants the source fixes (spec/00_scope.md R6) and the values the spec leaves open, as constants
without a body (spec/20_memory.md R47; spec/92_eei_decisions.md D22). -/

namespace Sys2Proof.Config

/-- `FRAME_MIN`, the smallest accepted frame (R6). -/
abbrev frameMin : Nat := 11

/-- `FRAME_MAX`, the largest accepted frame (R6). -/
abbrev frameMax : Nat := 26

/-- `MARKER`, frame byte 0 (R6). -/
abbrev marker0 : Byte := 0xE1

/-- `MARKER`, frame byte 1 (R6). -/
abbrev marker1 : Byte := 0x02

/-- `MARKER`, frame byte 2 (R6). -/
abbrev marker2 : Byte := 0x10

/-- `IV_SRC`: the frame byte that goes to IV byte 0 (R6). -/
abbrev ivSrc0 : Fin 26 := 7

/-- `IV_SRC`: the frame byte that goes to IV byte 1 (R6). -/
abbrev ivSrc1 : Fin 26 := 8

/-- `CBLK_OFF`, the first ciphertext byte in the frame (R6). -/
abbrev cblkOff : Nat := 10

/-- The byte an unspecified read returns, at each draw (R47: any value, possibly different on each read). A FREE VALUE:
nothing constrains it (notes/assumptions/3.md). -/
opaque freeByte : Nat → Byte

/-- `ALARM_NAME`, an OPEN parameter (D22, U16): the name of an `ALMCODE` value. No rule reads it
(notes/assumptions/18.md). -/
opaque alarmName : Nat → String

/-- `STATE_NAME`, an OPEN parameter (D22, U16): the name of a device state. No rule reads it. -/
opaque stateName : Nat → String

/-- `ERROR_NAME`, an OPEN parameter (D22, U16): the name of an error code. No rule reads it. -/
opaque errorName : Nat → String

end Sys2Proof.Config
end

