-- ==== Sys2Proof/Syntax.lean ====
section
/-! DEFINITION. The operation set: one constructor of `Instr` per row of spec/opcode_table.json (spec/30_encoding.md R60,
R81), what selects operations (`Selector`), the rows themselves (`TableRow`), and the reasons decoding refuses. -/

namespace Sys2Proof

/-- The operations, in the table's order. Host operations carry the fields of the access word (R78); every other
operation reads its operands from the block's registers and has none of its own. -/
inductive Instr where
  /-- `HRD addr`. `v` is the byte a trace records as returned (R78); the access itself does not read it
  (notes/assumptions/9.md). -/
  | hrd (addr v : Byte)
  /-- `HWR addr, v`: every write that is not START or RELEASE, CTRL writes without effect among them. -/
  | hwr (addr v : Byte)
  /-- `START`: a write of `v`, `v[0] = 1`, to CTRL. `v[7:1]` is ignored. -/
  | start (v : Byte)
  /-- `RELEASE`: a write of `v`, `v[0] = 0`, to CTRL. `v[7:1]` is ignored. -/
  | release (v : Byte)
  | chkFrm
  | genIv
  | ldBlk
  | decr
  | bmTtg
  | bmVbat
  | bmAlarm
  | bmAuxSel
  | bmAux0
  | bmAux1
  | bmAux2
  | bmAux3
  | bmIbat
  | bmCons
  | bmSoc
  | scState
  | scErr
  | scVbat
  | scIbat
  | scEday
  | scPv
  | scIload
  | almCode
  | stCode
  | erCode
  | rngV
  | rngI
  | rngE
  | rngP
  | rngL
  | dudSum
  | fin
  deriving DecidableEq, Repr

/-- What selects operations (R60): a host access word with the two handshake bits its selection depends on, or, for the
sequencer, the stage word with the decrypted block (whose aux selector picks the sub-form of BM.AUX). -/
inductive Selector where
  | host (word : HostWord) (ready done : Bool)
  | sequencer (word : StageWord) (block : BlockWord)
  deriving DecidableEq, Repr

/-- Why decoding refuses. -/
inductive DecodeError where
  /-- A stage word whose code selects no operation: 0 (`IDLE`) or 9..15, which never occur while the sequencer has a step
  (R14, R77(g)). -/
  | noOperationAtStage (code : BitVec 4)
  /-- A table word with a bit set above the width of its format (R81). -/
  | bitsAboveFormat
  /-- A byte string of a length no format has. -/
  | noFormatOfThisLength (n : Nat)
  deriving DecidableEq, Repr

/-- The fixed bits of a row of spec/opcode_table.json (R81): of the host word, or of the stage word and, for a block
format, of the decrypted block. -/
inductive TableRow where
  | host (mask pattern : HostWord)
  | sequencer (mask pattern : StageWord) (blockMask blockPattern : BlockWord)
  deriving DecidableEq, Repr

end Sys2Proof
end

