-- ==== Sys2Proof/WellFormed.lean ====
section
/-! DEFINITION. Which terms of `Instr` and `Selector` the spec has an encoding for. Widths are in the types; what is left
to check is bit 0 of a CTRL write (spec/30_encoding.md R60, rows START and RELEASE) and the stage code of a sequencer
selection (spec/10_state.md R14). -/

namespace Sys2Proof

/-- START writes a byte with bit 0 = 1, RELEASE one with bit 0 = 0 (R60); every other term has an encoding. -/
def Instr.wf : Instr → Bool
  | .hrd _ _ => true
  | .hwr _ _ => true
  | .start v => v.getLsbD 0
  | .release v => !v.getLsbD 0
  | .chkFrm => true
  | .genIv => true
  | .ldBlk => true
  | .decr => true
  | .bmTtg => true
  | .bmVbat => true
  | .bmAlarm => true
  | .bmAuxSel => true
  | .bmAux0 => true
  | .bmAux1 => true
  | .bmAux2 => true
  | .bmAux3 => true
  | .bmIbat => true
  | .bmCons => true
  | .bmSoc => true
  | .scState => true
  | .scErr => true
  | .scVbat => true
  | .scIbat => true
  | .scEday => true
  | .scPv => true
  | .scIload => true
  | .almCode => true
  | .stCode => true
  | .erCode => true
  | .rngV => true
  | .rngI => true
  | .rngE => true
  | .rngP => true
  | .rngL => true
  | .dudSum => true
  | .fin => true

/-- A host word always selects an access; a stage word selects operations for the codes 1 (`CHK`) to 8 (`FIN`) (R14,
R94). -/
def Selector.wf : Selector → Bool
  | .host _ _ _ => true
  | .sequencer w _ => decide (1 ≤ (w.extractLsb' 1 4).toNat ∧ (w.extractLsb' 1 4).toNat ≤ 8)

end Sys2Proof
end

