-- ==== Sys2Proof/Decode.lean ====
section
/-! DEFINITION. From the words of spec/30_encoding.md R81 to operations and back: the HOST format (17 bits), the STAGE
format (5 bits), the block patterns (128 bits over DBLK), the rows of spec/opcode_table.json, the encoder, and the
table-word decoder `decodeTableWord`. -/

namespace Sys2Proof

/-! ## The fields of a host access word (R78) -/

/-- Direction: `true` for a write. -/
def hostIsWrite (w : HostWord) : Bool := w.getLsbD 16

/-- The register address. -/
def hostAddr (w : HostWord) : Byte := w.extractLsb' 8 8

/-- The data byte: written, or recorded as returned. -/
def hostData (w : HostWord) : Byte := w.extractLsb' 0 8

/-- The host word of an access. -/
def hostWord (write : Bool) (addr v : Byte) : HostWord := bit write ++ addr ++ v

/-! ## The fields of a stage word and of a block word (R81) -/

/-- `STAGE[3:0]`. -/
def stageCode (w : StageWord) : BitVec 4 := w.extractLsb' 1 4

/-- `CFG.LAYOUT`: `true` is the Solar Controller. -/
def stageLayout (w : StageWord) : Bool := w.getLsbD 0

/-- The stage word of a code and a layout. -/
def stageWord (code : BitVec 4) (layout : Bool) : StageWord := code ++ bit layout

/-- The aux selector, block bits 65:64 (R72). -/
def blockAux (b : BlockWord) : BitVec 2 := b.extractLsb' 64 2

/-- A block word that holds aux selector `n` and is zero elsewhere. -/
def auxBlock (n : BitVec 2) : BlockWord := (n.zeroExtend 128) <<< 64

/-! ## The decoder -/

/-- The operation a host access word is, by the handshake bits (R60, R91): a CTRL write is START or RELEASE when its
condition holds and a plain HWR without effect otherwise (R81). -/
def decodeHost (w : HostWord) (ready done : Bool) : Instr :=
  if hostIsWrite w then
    if hostAddr w = 0 then
      if (hostData w).getLsbD 0 then
        if ready then .hwr 0 (hostData w) else .start (hostData w)
      else
        if ready && done then .release (hostData w) else .hwr 0 (hostData w)
    else .hwr (hostAddr w) (hostData w)
  else .hrd (hostAddr w) (hostData w)

/-- The sub-form of BM.AUX that the aux selector picks (R60, R72). -/
def auxForm (n : BitVec 2) : Instr :=
  match n.toNat with
  | 0 => .bmAux0
  | 1 => .bmAux1
  | 2 => .bmAux2
  | _ => .bmAux3

/-- The eight operations of stage UNP in the Battery Monitor layout (R94, R100). -/
def bmOps (b : BlockWord) : List Instr :=
  [.bmTtg, .bmVbat, .bmAlarm, .bmAuxSel, auxForm (blockAux b), .bmIbat, .bmCons, .bmSoc]

/-- The seven operations of stage UNP in the Solar Controller layout (R94, R100). -/
def scOps : List Instr := [.scState, .scErr, .scVbat, .scIbat, .scEday, .scPv, .scIload]

/-- The operations of stage RNG in the Solar Controller layout, DUDSUM last (R102, R186). -/
def rngOps : List Instr := [.rngV, .rngI, .rngE, .rngP, .rngL, .dudSum]

/-- The operations a sequencer step executes, by stage code and layout (R94's table). -/
def decodeStage (w : StageWord) (b : BlockWord) : Except DecodeError (List Instr) :=
  match (stageCode w).toNat with
  | 1 => .ok [.chkFrm]
  | 2 => .ok [.genIv]
  | 3 => .ok [.ldBlk]
  | 4 => .ok [.decr]
  | 5 => .ok (if stageLayout w then scOps else bmOps b)
  | 6 => .ok (if stageLayout w then [.stCode, .erCode] else [.almCode])
  | 7 => .ok (if stageLayout w then rngOps else [.dudSum])
  | 8 => .ok [.fin]
  | _ => .error (.noOperationAtStage (stageCode w))

/-- What a selector selects. -/
def decode : Selector → Except DecodeError (List Instr)
  | .host w ready done => .ok [decodeHost w ready done]
  | .sequencer w b => decodeStage w b

/-! ## The encoder -/

/-- A selector of the instruction, with every bit its row does not fix at 0. A plain HWR to CTRL is selected in a state
where it has no effect (R81): `READY = 1` for `v[0] = 1`, `READY = 0` for `v[0] = 0`. -/
def encode : Instr → Selector
  | .hrd a v => .host (hostWord false a v) false false
  | .hwr a v => .host (hostWord true a v) (v.getLsbD 0) false
  | .start v => .host (hostWord true 0 v) false false
  | .release v => .host (hostWord true 0 v) true true
  | .chkFrm => .sequencer (stageWord 1 false) 0
  | .genIv => .sequencer (stageWord 2 false) 0
  | .ldBlk => .sequencer (stageWord 3 false) 0
  | .decr => .sequencer (stageWord 4 false) 0
  | .bmTtg => .sequencer (stageWord 5 false) 0
  | .bmVbat => .sequencer (stageWord 5 false) 0
  | .bmAlarm => .sequencer (stageWord 5 false) 0
  | .bmAuxSel => .sequencer (stageWord 5 false) 0
  | .bmAux0 => .sequencer (stageWord 5 false) (auxBlock 0)
  | .bmAux1 => .sequencer (stageWord 5 false) (auxBlock 1)
  | .bmAux2 => .sequencer (stageWord 5 false) (auxBlock 2)
  | .bmAux3 => .sequencer (stageWord 5 false) (auxBlock 3)
  | .bmIbat => .sequencer (stageWord 5 false) 0
  | .bmCons => .sequencer (stageWord 5 false) 0
  | .bmSoc => .sequencer (stageWord 5 false) 0
  | .scState => .sequencer (stageWord 5 true) 0
  | .scErr => .sequencer (stageWord 5 true) 0
  | .scVbat => .sequencer (stageWord 5 true) 0
  | .scIbat => .sequencer (stageWord 5 true) 0
  | .scEday => .sequencer (stageWord 5 true) 0
  | .scPv => .sequencer (stageWord 5 true) 0
  | .scIload => .sequencer (stageWord 5 true) 0
  | .almCode => .sequencer (stageWord 6 false) 0
  | .stCode => .sequencer (stageWord 6 true) 0
  | .erCode => .sequencer (stageWord 6 true) 0
  | .rngV => .sequencer (stageWord 7 true) 0
  | .rngI => .sequencer (stageWord 7 true) 0
  | .rngE => .sequencer (stageWord 7 true) 0
  | .rngP => .sequencer (stageWord 7 true) 0
  | .rngL => .sequencer (stageWord 7 true) 0
  | .dudSum => .sequencer (stageWord 7 false) 0
  | .fin => .sequencer (stageWord 8 false) 0

/-! ## The rows of spec/opcode_table.json -/

/-- A row of format BMBLOCK without fixed block bits. -/
def bmRow : TableRow := .sequencer 0x1F 0b01010 0 0

/-- The row of sub-form `n` of BM.AUX: block bits 65:64 hold `n` (R81). -/
def bmAuxRow (n : BitVec 2) : TableRow := .sequencer 0x1F 0b01010 (auxBlock 3) (auxBlock n)

/-- A row of format SCBLOCK. -/
def scRow : TableRow := .sequencer 0x1F 0b01011 0 0

/-- The instruction's row: its mask and match, and for the block formats its stage encoding. -/
def Instr.row : Instr → TableRow
  | .hrd _ _ => .host 0x10000 0x00000
  | .hwr _ _ => .host 0x10000 0x10000
  | .start _ => .host 0x1FF01 0x10001
  | .release _ => .host 0x1FF01 0x10000
  | .chkFrm => .sequencer 0x1E 0x02 0 0
  | .genIv => .sequencer 0x1E 0x04 0 0
  | .ldBlk => .sequencer 0x1E 0x06 0 0
  | .decr => .sequencer 0x1E 0x08 0 0
  | .bmTtg => bmRow
  | .bmVbat => bmRow
  | .bmAlarm => bmRow
  | .bmAuxSel => bmRow
  | .bmAux0 => bmAuxRow 0
  | .bmAux1 => bmAuxRow 1
  | .bmAux2 => bmAuxRow 2
  | .bmAux3 => bmAuxRow 3
  | .bmIbat => bmRow
  | .bmCons => bmRow
  | .bmSoc => bmRow
  | .scState => scRow
  | .scErr => scRow
  | .scVbat => scRow
  | .scIbat => scRow
  | .scEday => scRow
  | .scPv => scRow
  | .scIload => scRow
  | .almCode => .sequencer 0x1F 0x0C 0 0
  | .stCode => .sequencer 0x1F 0x0D 0 0
  | .erCode => .sequencer 0x1F 0x0D 0 0
  | .rngV => .sequencer 0x1F 0x0F 0 0
  | .rngI => .sequencer 0x1F 0x0F 0 0
  | .rngE => .sequencer 0x1F 0x0F 0 0
  | .rngP => .sequencer 0x1F 0x0F 0 0
  | .rngL => .sequencer 0x1F 0x0F 0 0
  | .dudSum => .sequencer 0x1E 0x0E 0 0
  | .fin => .sequencer 0x1E 0x10 0 0

/-- A selector value `s` fits a row when `s AND mask = match` (R81). -/
def TableRow.fits : TableRow → Selector → Bool
  | .host m p, .host w _ _ => w &&& m == p
  | .sequencer m p bm bp, .sequencer w b => w &&& m == p && b &&& bm == bp
  | .host _ _, .sequencer _ _ => false
  | .sequencer _ _ _ _, .host _ _ _ => false

/-- The row's condition on the handshake bits (the table's column "condition"): START needs READY = 0, RELEASE needs
READY = 1 and DONE = 1. The other rows of the host and every row of the sequencer put none here. -/
def Instr.condition : Instr → Selector → Bool
  | .start _, .host _ ready _ => !ready
  | .release _, .host _ ready done => ready && done
  | _, _ => true

/-- The operands of a host operation are the fields of the word; no other operation has operands. -/
def Instr.operandsOf : Instr → Selector → Bool
  | .hrd a v, .host w _ _ => a == hostAddr w && v == hostData w
  | .hwr a v, .host w _ _ => a == hostAddr w && v == hostData w
  | .start v, .host w _ _ => v == hostData w
  | .release v, .host w _ _ => v == hostData w
  | _, _ => true

/-- The row is selected: its fixed bits fit, its condition holds, its operands are the word's. -/
def Instr.rowSelected (i : Instr) (sel : Selector) : Bool :=
  i.row.fits sel && i.condition sel && i.operandsOf sel

/-- The instruction is selected: its row is, and, for HWR, neither START's nor RELEASE's is ("every write that is not
START or RELEASE", the table's condition of HWR). -/
def Instr.selectedBy (i : Instr) (sel : Selector) : Bool :=
  match i, sel with
  | .hwr a v, .host w r d =>
    Instr.rowSelected (.hwr a v) (.host w r d) && !Instr.rowSelected (.start v) (.host w r d) &&
      !Instr.rowSelected (.release v) (.host w r d)
  | j, t => j.rowSelected t

/-! ## Words of spec/opcode_table.json as byte strings -/

/-- The low `n` bytes of `w`, the least significant first. -/
def bytesOf : Nat → Nat → List Byte
  | 0, _ => []
  | n + 1, w => BitVec.ofNat 8 w :: bytesOf n (w / 256)

/-- The number a byte string is, least significant byte first. -/
def numberOf : List Byte → Nat
  | [] => 0
  | b :: bs => b.toNat + 256 * numberOf bs

/-- The handshake bits `(READY, DONE)` in which a CTRL write is what its row says: START with READY = 0, RELEASE with
READY = 1 and DONE = 1 (the rows' conditions). A table word carries no state, so the condition is taken as met. -/
def tableHandshake (w : HostWord) : Bool × Bool := (!(hostData w).getLsbD 0, true)

/-- Total on any byte string: three bytes are a host word, one byte a stage word, sixteen bytes a decrypted block in the
Battery Monitor layout (the only layout whose rows fix block bits); anything else is refused by name. -/
def decodeBytes (bs : List Byte) : Except DecodeError (List Instr) :=
  let n := numberOf bs
  match bs.length with
  | 3 =>
    if n < 2 ^ 17 then
      let w : HostWord := BitVec.ofNat 17 n
      decode (.host w (tableHandshake w).1 (tableHandshake w).2)
    else .error .bitsAboveFormat
  | 1 => if n < 2 ^ 5 then decode (.sequencer (BitVec.ofNat 5 n) 0) else .error .bitsAboveFormat
  | 16 => decode (.sequencer (stageWord 5 false) (BitVec.ofNat 128 n))
  | k => .error (.noFormatOfThisLength k)

/-- Whether the row fixes bits of the decrypted block: the four sub-forms of BM.AUX. -/
def Instr.fixesBlockBits (i : Instr) : Bool :=
  match i.row with
  | .host _ _ => false
  | .sequencer _ _ blockMask _ => blockMask != 0

/-- One instruction for a table word that selects several (R81: rows with the same STAGE pattern execute in the same
step): the one whose row fixes bits of the block, else the first of the step (notes/assumptions/4.md). -/
def tableChoice (ops : List Instr) : Option Instr :=
  match ops.find? Instr.fixesBlockBits with
  | some i => some i
  | none => ops.head?

/-- The instruction the decoder reads from a table word of `nbits` bits. -/
def decodeTableWord (nbits w : Nat) : Option Instr :=
  if w < 2 ^ nbits then
    match decodeBytes (bytesOf (nbits / 8) w) with
    | .ok ops => tableChoice ops
    | .error _ => none
  else none

end Sys2Proof
end

