-- ==== Sys2Proof/Machine/State.lean ====
section
/-! DEFINITION. The state of the block (spec/10_state.md), its reset value (R34), the names of its registers in the
register space (spec/20_memory.md R41), the turns the outside world and the sequencer take, and the reasons a step stops. -/

namespace Sys2Proof.Machine

/-- The six range-bound registers (R25). -/
inductive Bound where
  | vmin | vmax | imin | imax | emax | pmax
  deriving DecidableEq, Repr

/-- A byte of a register, as the register space names it (R41). -/
inductive Reg where
  | ctrl | status | stage | cfg | flen | ftol | duds | dudmask | avail | misc | almcode
  | key (i : Fin 16)
  | frame (i : Fin 26)
  | iv (i : Fin 16)
  | cblk (i : Fin 16)
  | dblk (i : Fin 16)
  /-- The low (`high = false`) or high byte of a bound (R42). -/
  | bound (b : Bound) (high : Bool)
  /-- Byte `k` of `Vi`, least significant first (R42). -/
  | result (i : Fin 8) (k : Fin 4)
  deriving DecidableEq, Repr

/-- Access rights of a register (R41). -/
inductive Access where
  | rw | ro | wo
  deriving DecidableEq, Repr

/-- Rejection causes (R200). -/
inductive RejectCause where
  | length | marker
  deriving DecidableEq, Repr

/-- A turn of one agent (R10, R50), or the platform's reset input (R220). MODEL's own (notes/assumptions/1.md,
notes/assumptions/14.md). -/
inductive Turn where
  /-- The host makes one access, given as its word (R78). -/
  | access (w : HostWord)
  /-- The sequencer takes its step, if it has one (R94). -/
  | sequencer
  /-- The reset input acts (R220). -/
  | reset
  deriving DecidableEq, Repr

/-- The decryptor's scratch state (R31): no host access observes it. -/
structure Scratch where
  /-- `SCR.RK[0..10]`. -/
  rk : Vector Block 11
  /-- `SCR.S`. -/
  s : Block
  /-- `SCR.KS`. -/
  ks : Block
  deriving DecidableEq, Repr

/-- The machine. The last three fields are the MODEL's own. -/
structure State where
  /-- `V0..V7` (R11). -/
  v : Vector Word32 8
  /-- `STAGE`, the program counter (R14). -/
  stage : BitVec 4
  /-- `AVAIL` (R15). -/
  avail : Byte
  /-- `DUDMASK` (R16). -/
  dudmask : Byte
  /-- `DUDS` (R17). -/
  duds : BitVec 3
  /-- `MISC` (R18). -/
  misc : Byte
  /-- `ALMCODE` (R19). -/
  almcode : Byte
  /-- `CTRL` (R20). -/
  ctrl : Byte
  /-- `STATUS` (R21). -/
  status : Byte
  /-- `CFG` (R22). -/
  cfg : Byte
  /-- `FLEN` (R23). -/
  flen : Byte
  /-- `FTOL` (R24). -/
  ftol : Byte
  /-- `VMIN` (R25). -/
  vmin : Word16
  /-- `VMAX` (R25). -/
  vmax : Word16
  /-- `IMIN` (R25). -/
  imin : Word16
  /-- `IMAX` (R25). -/
  imax : Word16
  /-- `EMAX` (R25). -/
  emax : Word16
  /-- `PMAX` (R25). -/
  pmax : Word16
  /-- `KEY[0..15]` (R26). -/
  key : Block
  /-- `FRAME[0..25]` (R27). -/
  frame : FrameBytes
  /-- `IV[0..15]` (R28). -/
  iv : Block
  /-- `CBLK[0..15]` (R29). -/
  cblk : Block
  /-- `DBLK[0..15]` (R30). -/
  dblk : Block
  /-- `SCR` (R31). -/
  scr : Scratch
  /-- MODEL's own: the turns still to come (notes/assumptions/1.md). -/
  schedule : List Turn
  /-- MODEL's own: the byte the last HRD returned (notes/assumptions/2.md). -/
  rdata : Byte
  /-- MODEL's own: how many unspecified bytes have been drawn (notes/assumptions/3.md). -/
  draws : Nat
  deriving DecidableEq, Repr

/-- All of SCR zero: its value at reset (R34) and where DECR starts from (R111). -/
def Scratch.zero : Scratch :=
  { rk := Vector.replicate 11 zeroBlock, s := zeroBlock, ks := zeroBlock }

/-- Every register zero (R34, R220); no turn pending. -/
def State.reset : State :=
  { v := Vector.replicate 8 0
    stage := 0
    avail := 0
    dudmask := 0
    duds := 0
    misc := 0
    almcode := 0
    ctrl := 0
    status := 0
    cfg := 0
    flen := 0
    ftol := 0
    vmin := 0
    vmax := 0
    imin := 0
    imax := 0
    emax := 0
    pmax := 0
    key := zeroBlock
    frame := Vector.replicate 26 0
    iv := zeroBlock
    cblk := zeroBlock
    dblk := zeroBlock
    scr := Scratch.zero
    schedule := []
    rdata := 0
    draws := 0 }

/-- Why a step stops with a fault. -/
inductive Fault where
  /-- Raised by the sequencer's step when CTRL.READY = 1, STATUS.DONE = 0 and STAGE is 0 or 9..15. The spec says these
  codes do not occur then (R14, R77(g), R94); a stop where the hardware has no behaviour: SAFE
  (notes/assumptions/7.md). -/
  | noStageOperation (code : BitVec 4)
  deriving DecidableEq, Repr

/-- Why an instruction is refused. -/
inductive Refusal where
  /-- Raised by `exec` for an instruction without a meaning. SAFE. No arm raises it: every row is modelled. -/
  | notModelled (mnemonic : String)
  deriving DecidableEq, Repr

/-- The outcome of a step or of an operation. -/
abbrev Result := Host.Outcome State Fault Refusal

end Sys2Proof.Machine
end

