-- ==== Sys2Proof/Machine/Operands.lean ====
section
/-! DEFINITION. Operand assembly (spec/30_encoding.md section 6): the decrypted block as an integer, bit-field extraction,
two's-complement decoding, the result registers as signed integers, and the field tables of the two layouts (R12, R65,
R68). -/

namespace Sys2Proof.Machine

/-- `int(D)`, the block as a 128-bit little-endian integer (R8). -/
def blockInt (d : Block) : Nat :=
  d[0].toNat + d[1].toNat * 2 ^ 8 + d[2].toNat * 2 ^ 16 + d[3].toNat * 2 ^ 24 + d[4].toNat * 2 ^ 32 +
    d[5].toNat * 2 ^ 40 + d[6].toNat * 2 ^ 48 + d[7].toNat * 2 ^ 56 + d[8].toNat * 2 ^ 64 + d[9].toNat * 2 ^ 72 +
    d[10].toNat * 2 ^ 80 + d[11].toNat * 2 ^ 88 + d[12].toNat * 2 ^ 96 + d[13].toNat * 2 ^ 104 +
    d[14].toNat * 2 ^ 112 + d[15].toNat * 2 ^ 120

/-- `int(D)` as a 128-bit word, what a block pattern is written over (R81). -/
def blockWord (d : Block) : BlockWord := BitVec.ofNat 128 (blockInt d)

/-- The block whose integer is the word: byte `i` is bits `8i+7 : 8i` (R8). -/
def wordBlock (b : BlockWord) : Block := Vector.ofFn fun i : Fin 16 => b.extractLsb' (8 * i.val) 8

/-- `extract(D, off, w)` (R8). -/
def extract (d : Block) (off w : Nat) : Nat := (blockInt d >>> off) % 2 ^ w

/-- `tc_w(raw)`, two's-complement decoding of an unsigned `w`-bit integer, by subtraction of `2^w` (R8, R70, R139). -/
def tc (w raw : Nat) : Int := if 2 ^ (w - 1) ≤ raw then (raw : Int) - 2 ^ w else raw

/-- `x[i]` read: the result register as a signed integer, `tc_32` of its bits (R8). -/
def State.x (s : State) (i : Fin 8) : Int := s.v[i].toInt

/-- `x[i] <- z`: a mathematical integer is stored as `z mod 2^32` (R8). -/
def State.setX (s : State) (i : Fin 8) (z : Int) : State := { s with v := s.v.set i.val (BitVec.ofInt 32 z) }

/-- A bound register (R25). -/
def State.bound (s : State) : Bound → Word16
  | .vmin => s.vmin
  | .vmax => s.vmax
  | .imin => s.imin
  | .imax => s.imax
  | .emax => s.emax
  | .pmax => s.pmax

/-- The value a bound register is compared as: signed 16 for VMIN, VMAX, IMIN, IMAX, unsigned 16 for EMAX, PMAX (R25). -/
def State.boundValue (s : State) : Bound → Int
  | .vmin => s.vmin.toInt
  | .vmax => s.vmax.toInt
  | .imin => s.imin.toInt
  | .imax => s.imax.toInt
  | .emax => s.emax.toNat
  | .pmax => s.pmax.toNat

/-- Units of the fields (R12). -/
inductive MeasureUnit where
  | minute | volt | ampere | ampereHour | percent | kelvin | kilowattHour | watt | none
  deriving DecidableEq, Repr

/-- A field of a layout: RVAD's FieldSpec (R9, R65, R68). `countsPerUnit` and `unit` are constants of the field that no
rule of the block reads (R12, R33). -/
structure FieldSpec where
  /-- Block bit offset of the field's least significant bit. -/
  off : Nat
  /-- Width in bits. -/
  w : Nat
  /-- The result register, also the index of the field's flags. -/
  reg : Fin 8
  /-- How many counts make one unit: 100 for a scale of 0.01. -/
  countsPerUnit : Nat
  /-- The physical unit. -/
  unit : MeasureUnit
  deriving DecidableEq, Repr

/-- The field's raw bits in a block. -/
def FieldSpec.raw (f : FieldSpec) (d : Block) : Nat := extract d f.off f.w

/-- The offset and width of the aux selector in the block (R65, R72). -/
def auxSelector (d : Block) : Nat := extract d 64 2

/-! ## Battery Monitor layout (R65) -/

/-- Time-to-go (R65, R131). -/
def fieldBmTtg : FieldSpec := { off := 0, w := 16, reg := 0, countsPerUnit := 1, unit := .minute }

/-- Battery voltage (R65, R132). -/
def fieldBmVbat : FieldSpec := { off := 16, w := 16, reg := 1, countsPerUnit := 100, unit := .volt }

/-- Alarm bitmask (R65, R133). -/
def fieldBmAlarm : FieldSpec := { off := 32, w := 16, reg := 2, countsPerUnit := 1, unit := .none }

/-- Aux value read as a voltage, selector 0 and 1 (R65, R72, R135). -/
def fieldBmAuxVolt : FieldSpec := { off := 48, w := 16, reg := 3, countsPerUnit := 100, unit := .volt }

/-- Aux value read as a temperature, selector 2 (R65, R72, R135). -/
def fieldBmAuxKelvin : FieldSpec := { off := 48, w := 16, reg := 3, countsPerUnit := 100, unit := .kelvin }

/-- Battery current (R65, R66, R136). -/
def fieldBmIbat : FieldSpec := { off := 66, w := 22, reg := 4, countsPerUnit := 1000, unit := .ampere }

/-- Consumed charge (R65, R137). -/
def fieldBmCons : FieldSpec := { off := 88, w := 20, reg := 5, countsPerUnit := 10, unit := .ampereHour }

/-- State of charge (R65, R67, R138). -/
def fieldBmSoc : FieldSpec := { off := 108, w := 10, reg := 6, countsPerUnit := 10, unit := .percent }

/-! ## Solar Controller layout (R68) -/

/-- Device state (R68, R151). -/
def fieldScState : FieldSpec := { off := 0, w := 8, reg := 0, countsPerUnit := 1, unit := .none }

/-- Error code (R68, R152). -/
def fieldScErr : FieldSpec := { off := 8, w := 8, reg := 1, countsPerUnit := 1, unit := .none }

/-- Battery voltage (R68, R153). -/
def fieldScVbat : FieldSpec := { off := 16, w := 16, reg := 2, countsPerUnit := 100, unit := .volt }

/-- Battery current (R68, R154). -/
def fieldScIbat : FieldSpec := { off := 32, w := 16, reg := 3, countsPerUnit := 10, unit := .ampere }

/-- Energy today (R68, R155). -/
def fieldScEday : FieldSpec := { off := 48, w := 16, reg := 4, countsPerUnit := 100, unit := .kilowattHour }

/-- PV power (R68, R156). -/
def fieldScPv : FieldSpec := { off := 64, w := 16, reg := 5, countsPerUnit := 1, unit := .watt }

/-- Load current (R68, R157). -/
def fieldScIload : FieldSpec := { off := 80, w := 9, reg := 6, countsPerUnit := 10, unit := .ampere }

end Sys2Proof.Machine
end

