-- ==== Sys2Proof/Machine/Flags.lean ====
section
/-! DEFINITION. Every flag and status field of the block (spec/10_state.md sections 4 and 5): reading them, writing them,
and the tests that compute them (sentinels R69, R70; duds R180; popcount R8). -/

namespace Sys2Proof.Machine

/-! ## Bits of a register -/

/-- The register with bit `i` set to `b`. -/
def putBit {n : Nat} (r : BitVec n) (i : Nat) (b : Bool) : BitVec n :=
  if b then r ||| BitVec.twoPow n i else r &&& ~~~BitVec.twoPow n i

/-- The register with bits `i+1 : i` set to `v`. -/
def putPair {n : Nat} (r : BitVec n) (i : Nat) (v : BitVec 2) : BitVec n :=
  putBit (putBit r i (v.getLsbD 0)) (i + 1) (v.getLsbD 1)

/-- `popcount(v)`, the number of 1 bits (R8). -/
def popcount {n : Nat} (r : BitVec n) : Nat := (List.range n).countP fun i => r.getLsbD i

/-! ## Reading the control and status fields -/

/-- `CTRL.READY` (R20). -/
def State.ready (s : State) : Bool := s.ctrl.getLsbD 0

/-- `STATUS.DONE` (R21). -/
def State.done (s : State) : Bool := s.status.getLsbD 0

/-- `STATUS.ACCEPT` (R21). -/
def State.accept (s : State) : Bool := s.status.getLsbD 1

/-- `STATUS.REJ` (R21). -/
def State.rej (s : State) : BitVec 2 := s.status.extractLsb' 2 2

/-- `STATUS.SUPPRESS` (R21). -/
def State.suppress (s : State) : Bool := s.status.getLsbD 4

/-- `CFG.LAYOUT`: `true` is the Solar Controller (R22). -/
def State.layout (s : State) : Bool := s.cfg.getLsbD 0

/-- `CFG.FILTER_EN` (R22). -/
def State.filterEn (s : State) : Bool := s.cfg.getLsbD 1

/-- `CFG.LOAD_SUP` (R22). -/
def State.loadSup (s : State) : Bool := s.cfg.getLsbD 2

/-- The frame length, `FLEN[4:0]` (R23). -/
def State.frameLen (s : State) : Nat := (s.flen.extractLsb' 0 5).toNat

/-- The tolerated duds when filtering is on, `FTOL[2:0]` (R24). -/
def State.tolerance (s : State) : Nat := (s.ftol.extractLsb' 0 3).toNat

/-- `AVAIL[i]` (R15). -/
def State.available (s : State) (i : Fin 8) : Bool := s.avail.getLsbD i.val

/-- `READY = 1 ∧ DONE = 0`: the sequencer has a step (R94), and per-frame registers read as unspecified bytes (R47). -/
def State.busy (s : State) : Bool := s.ready && !s.done

/-! ## Writing the flags -/

/-- `AVAIL[i] <- b`. -/
def State.setAvail (s : State) (i : Fin 8) (b : Bool) : State := { s with avail := putBit s.avail i.val b }

/-- `DUDMASK[i] <- b`. -/
def State.setDud (s : State) (i : Fin 8) (b : Bool) : State := { s with dudmask := putBit s.dudmask i.val b }

/-- `MISC.TTG_INF <- b` (R18). -/
def State.setTtgInf (s : State) (b : Bool) : State := { s with misc := putBit s.misc 0 b }

/-- `MISC.SOC_CLAMP <- b` (R18). -/
def State.setSocClamp (s : State) (b : Bool) : State := { s with misc := putBit s.misc 1 b }

/-- `MISC.ST_KNOWN <- b` (R18). -/
def State.setStKnown (s : State) (b : Bool) : State := { s with misc := putBit s.misc 2 b }

/-- `MISC.ER_KNOWN <- b` (R18). -/
def State.setErKnown (s : State) (b : Bool) : State := { s with misc := putBit s.misc 3 b }

/-- `MISC.AUXMODE <- n`, bits 5:4 (R18). -/
def State.setAuxMode (s : State) (n : BitVec 2) : State := { s with misc := putPair s.misc 4 n }

/-- `STATUS.DONE <- b` (R21). -/
def State.setDone (s : State) (b : Bool) : State := { s with status := putBit s.status 0 b }

/-- `STATUS.ACCEPT <- b` (R21). -/
def State.setAccept (s : State) (b : Bool) : State := { s with status := putBit s.status 1 b }

/-- `STATUS.REJ <- c` (R21). -/
def State.setRej (s : State) (c : BitVec 2) : State := { s with status := putPair s.status 2 c }

/-- `STATUS.SUPPRESS <- b` (R21). -/
def State.setSuppress (s : State) (b : Bool) : State := { s with status := putBit s.status 4 b }

/-- `CTRL.READY <- b` (R20). -/
def State.setReady (s : State) (b : Bool) : State := { s with ctrl := putBit s.ctrl 0 b }

/-- `pc <- code` (R8, R14). -/
def State.setStage (s : State) (code : BitVec 4) : State := { s with stage := code }

/-! ## The tests that compute flags -/

/-- The sentinel of an unsigned field: all ones over the whole width (R69). -/
def isSentinel (w raw : Nat) : Bool := raw == 2 ^ w - 1

/-- The sentinel of a signed field: all ones over the magnitude bits, the sign bit not examined (R70; 90_conflicts.md
C2). -/
def isSignedSentinel (w raw : Nat) : Bool := raw % 2 ^ (w - 1) == 2 ^ (w - 1) - 1

/-- A field with a range is a dud when it is not available or its count lies outside `lo .. hi`, both ends inside
(R180). -/
def isRangeDud (available : Bool) (lo hi z : Int) : Bool := !available || decide (z < lo) || decide (z > hi)

/-- A field with a ceiling only is a dud when it is not available or its count lies above it (R183, R184). -/
def isCeilingDud (available : Bool) (hi z : Int) : Bool := !available || decide (z > hi)

/-- The code a rejection cause is recorded as (R200). -/
def rejectCode : RejectCause → BitVec 2
  | .length => 1
  | .marker => 2

end Sys2Proof.Machine
end

