-- ==== Sys2Proof/Machine/Ops.lean ====
section
/-! DEFINITION. The shared operations: the register space (spec/20_memory.md R41 to R48), the host's read and write (R90,
R91), START and RELEASE (R92, R93), the one exception-like event `Reject` (R200, R205), and unpacking a field (R69 to
R71). -/

namespace Sys2Proof.Machine

/-! ## The register space -/

/-- The bound registers in address order (R41). -/
def boundAt (k : Nat) : Bound :=
  match k with
  | 0 => .vmin
  | 1 => .vmax
  | 2 => .imin
  | 3 => .imax
  | 4 => .emax
  | _ => .pmax

/-- The address map (R41): the register byte at an address, `none` where the address is reserved (R48). -/
def regAt (a : Byte) : Option Reg :=
  let n := a.toNat
  if n = 0x00 then some .ctrl
  else if n = 0x01 then some .status
  else if n = 0x02 then some .stage
  else if n = 0x03 then some .cfg
  else if n = 0x04 then some .flen
  else if n = 0x05 then some .ftol
  else if n = 0x06 then some .duds
  else if n = 0x07 then some .dudmask
  else if n = 0x08 then some .avail
  else if n = 0x09 then some .misc
  else if n = 0x0A then some .almcode
  else if n < 0x10 then none
  else if h : n < 0x20 then some (.key ⟨n % 16, Nat.mod_lt _ (by decide)⟩)
  else if h : n < 0x3A then some (.frame ⟨n - 0x20, by omega⟩)
  else if n < 0x40 then none
  else if n < 0x50 then some (.iv ⟨n % 16, Nat.mod_lt _ (by decide)⟩)
  else if n < 0x60 then some (.cblk ⟨n % 16, Nat.mod_lt _ (by decide)⟩)
  else if n < 0x70 then some (.dblk ⟨n % 16, Nat.mod_lt _ (by decide)⟩)
  else if n < 0x7C then some (.bound (boundAt ((n - 0x70) / 2)) (n % 2 == 1))
  else if n < 0x80 then none
  else if h : n < 0xA0 then some (.result ⟨(n - 0x80) / 4, by omega⟩ ⟨n % 4, Nat.mod_lt _ (by decide)⟩)
  else none

/-- Access rights (R41). -/
def Reg.access : Reg → Access
  | .ctrl => .rw
  | .status => .ro
  | .stage => .ro
  | .cfg => .rw
  | .flen => .rw
  | .ftol => .rw
  | .duds => .ro
  | .dudmask => .ro
  | .avail => .ro
  | .misc => .ro
  | .almcode => .ro
  | .key _ => .wo
  | .frame _ => .rw
  | .iv _ => .ro
  | .cblk _ => .ro
  | .dblk _ => .ro
  | .bound _ _ => .rw
  | .result _ _ => .ro

/-- The per-frame registers, whose reads are unspecified while a frame is processed (R47). STATUS is among them, but for
its bit DONE. -/
def Reg.perFrame : Reg → Bool
  | .ctrl => false
  | .status => true
  | .stage => true
  | .cfg => false
  | .flen => false
  | .ftol => false
  | .duds => true
  | .dudmask => true
  | .avail => true
  | .misc => true
  | .almcode => true
  | .key _ => false
  | .frame _ => false
  | .iv _ => true
  | .cblk _ => true
  | .dblk _ => true
  | .bound _ _ => false
  | .result _ _ => true

/-- The bits of a read of the register that are exact even while a frame is processed: STATUS.DONE (R47). -/
def Reg.exactMask : Reg → Byte
  | .status => 0x01
  | _ => 0x00

/-- The bits a byte of the register has, by the register's width: 4 of STAGE, 3 of DUDS (R41: the bits above read 0). An
unspecified byte is a draw masked to them (93_implementation_defined.md U1). -/
def Reg.widthMask : Reg → Byte
  | .stage => 0x0F
  | .duds => 0x07
  | _ => 0xFF

/-- The byte of the register, reserved bits as 0 (R90); a `KEY` address reads 0 (R26). -/
def State.readReg (s : State) : Reg → Byte
  | .ctrl => s.ctrl &&& 0x01
  | .status => s.status &&& 0x1F
  | .stage => s.stage.zeroExtend 8
  | .cfg => s.cfg &&& 0x07
  | .flen => s.flen &&& 0x1F
  | .ftol => s.ftol &&& 0x07
  | .duds => s.duds.zeroExtend 8
  | .dudmask => s.dudmask
  | .avail => s.avail
  | .misc => s.misc &&& 0x3F
  | .almcode => s.almcode
  | .key _ => 0
  | .frame i => s.frame[i]
  | .iv i => s.iv[i]
  | .cblk i => s.cblk[i]
  | .dblk i => s.dblk[i]
  | .bound b high => if high then (s.bound b).extractLsb' 8 8 else (s.bound b).extractLsb' 0 8
  | .result i k => s.v[i].extractLsb' (8 * k.val) 8

/-- The exact byte at an address: reserved addresses read 0 (R48). -/
def State.peek (s : State) (a : Byte) : Byte :=
  match regAt a with
  | none => 0
  | some r => s.readReg r

/-- A 16-bit register with one of its bytes replaced (R42). -/
def putByte16 (r : Word16) (high : Bool) (v : Byte) : Word16 :=
  if high then v ++ r.extractLsb' 0 8 else r.extractLsb' 8 8 ++ v

/-- A write to one byte of a bound. -/
def State.setBoundByte (s : State) (b : Bound) (high : Bool) (v : Byte) : State :=
  match b with
  | .vmin => { s with vmin := putByte16 s.vmin high v }
  | .vmax => { s with vmax := putByte16 s.vmax high v }
  | .imin => { s with imin := putByte16 s.imin high v }
  | .imax => { s with imax := putByte16 s.imax high v }
  | .emax => { s with emax := putByte16 s.emax high v }
  | .pmax => { s with pmax := putByte16 s.pmax high v }

/-- `register(addr) <- v` with reserved bits forced to 0 (R91). A read-only register keeps its value (R41); CTRL is not
written here but by START and RELEASE. -/
def State.writeReg (s : State) (r : Reg) (v : Byte) : State :=
  match r with
  | .ctrl => s
  | .status => s
  | .stage => s
  | .cfg => { s with cfg := v &&& 0x07 }
  | .flen => { s with flen := v &&& 0x1F }
  | .ftol => { s with ftol := v &&& 0x07 }
  | .duds => s
  | .dudmask => s
  | .avail => s
  | .misc => s
  | .almcode => s
  | .key i => { s with key := s.key.set i.val v }
  | .frame i => { s with frame := s.frame.set i.val v }
  | .iv _ => s
  | .cblk _ => s
  | .dblk _ => s
  | .bound b high => s.setBoundByte b high v
  | .result _ _ => s

/-! ## START and RELEASE -/

/-- What START does (R92): READY set, all per-frame state cleared, `pc <- 1`. -/
def startEffect (s : State) : State :=
  { s with
    ctrl := putBit s.ctrl 0 true
    status := 0
    iv := zeroBlock
    cblk := zeroBlock
    dblk := zeroBlock
    v := Vector.replicate 8 0
    avail := 0
    dudmask := 0
    duds := 0
    misc := 0
    almcode := 0
    stage := 1 }

/-- What RELEASE does (R93): READY and DONE cleared, nothing else. It is also the end of a rejected frame (R206). -/
def releaseEffect (s : State) : State := (s.setReady false).setDone false

/-! ## The host's accesses -/

/-- A host read (R90): the byte is handed to the host in `rdata`. While a frame is processed, a per-frame register gives
an unspecified byte: a fresh draw of the free value, masked to the register's width (U1), but for STATUS.DONE, which is
exact (R47). -/
def hostRead (a : Byte) (s : State) : State :=
  match regAt a with
  | none => { s with rdata := 0 }
  | some r =>
    if s.busy && r.perFrame then
      { s with
        rdata := (Config.freeByte s.draws &&& r.widthMask &&& ~~~r.exactMask) ||| (s.readReg r &&& r.exactMask)
        draws := s.draws + 1 }
    else { s with rdata := s.readReg r }

/-- A host write (R91): CTRL writes are START, RELEASE or without effect (R93); any other write is dropped while
`READY = 1` (R46), and at reserved addresses (R48). -/
def hostWrite (a v : Byte) (s : State) : State :=
  if a = 0 then
    if v.getLsbD 0 && !s.ready then startEffect s
    else if !v.getLsbD 0 && s.ready && s.done then releaseEffect s
    else s
  else if s.ready then s
  else
    match regAt a with
    | none => s
    | some r => s.writeReg r v

/-! ## The exception-like event -/

/-- `raise Reject(cause)` (R205): STATUS.REJ records the cause, control goes to stage FIN; nothing else. -/
def raiseReject (cause : RejectCause) (s : State) : State := (s.setRej (rejectCode cause)).setStage 8

/-! ## Unpacking a field of the decrypted block -/

/-- A field without a "not available" pattern: its count is the raw value and its flag is 1 (D20). -/
def unpackPlain (f : FieldSpec) (s : State) : State := (s.setX f.reg (f.raw s.dblk)).setAvail f.reg true

/-- An unsigned field (R69); the count is stored whether or not the field is available (R71). -/
def unpackUnsigned (f : FieldSpec) (s : State) : State :=
  (s.setX f.reg (f.raw s.dblk)).setAvail f.reg (!isSentinel f.w (f.raw s.dblk))

/-- A signed field (R70); the count is stored whether or not the field is available (R71). -/
def unpackSigned (f : FieldSpec) (s : State) : State :=
  (s.setX f.reg (tc f.w (f.raw s.dblk))).setAvail f.reg (!isSignedSentinel f.w (f.raw s.dblk))

/-! ## Reset -/

/-- The reset input (R220): every register of the block at its reset value; the model's own fields stay
(notes/assumptions/14.md). -/
def resetBlock (s : State) : State :=
  { State.reset with schedule := s.schedule, rdata := s.rdata, draws := s.draws }

end Sys2Proof.Machine
end

