-- ==== Sys2Proof/Machine/CodeTables.lean ====
section
/-! DEFINITION. Family code tables: ALMCODE, STCODE, ERCODE (spec/44_code_tables.md R165 to R169). -/

namespace Sys2Proof.Machine

/-- The alarm code of a mask (R74, R166): 0 none, 15 more than one bit, `n + 1` for the single bit `n ≤ 13`, 16 for a
single bit outside the table. -/
def alarmCode (a : Word32) : Byte :=
  if a = 0 then 0
  else if popcount a ≥ 2 then 15
  else if a.toNat.log2 ≤ 13 then BitVec.ofNat 8 (a.toNat.log2 + 1)
  else 16

/-- `ALMCODE` (R166). -/
def execAlmCode (s : State) : Result := .next { s with almcode := alarmCode s.v[2] }

/-- `STCODE` (R168): states 0..7 are named. -/
def execStCode (s : State) : Result := .next (s.setStKnown (decide (s.x 0 ≤ 7)))

/-- `ERCODE` (R169): error codes 0..8 are named. -/
def execErCode (s : State) : Result := .next (s.setErKnown (decide (s.x 1 ≤ 8)))

end Sys2Proof.Machine
end

