-- ==== Sys2Proof/Machine/Aes.lean ====
section
/-! DEFINITION. The AES-128 forward cipher (spec/41_decryptor.md R113 to R119), which the spec supplies from general
knowledge and checks against published vectors (notes/assumptions/13.md). -/

namespace Sys2Proof.Machine

/-! ## Bytes of GF(2^8) -/

/-- The rows of the S-box table: row = high nibble, column = low nibble (R115). -/
def sboxRows : List (List Byte) :=
  [
    [0x63, 0x7c, 0x77, 0x7b, 0xf2, 0x6b, 0x6f, 0xc5, 0x30, 0x01, 0x67, 0x2b, 0xfe, 0xd7, 0xab, 0x76],
    [0xca, 0x82, 0xc9, 0x7d, 0xfa, 0x59, 0x47, 0xf0, 0xad, 0xd4, 0xa2, 0xaf, 0x9c, 0xa4, 0x72, 0xc0],
    [0xb7, 0xfd, 0x93, 0x26, 0x36, 0x3f, 0xf7, 0xcc, 0x34, 0xa5, 0xe5, 0xf1, 0x71, 0xd8, 0x31, 0x15],
    [0x04, 0xc7, 0x23, 0xc3, 0x18, 0x96, 0x05, 0x9a, 0x07, 0x12, 0x80, 0xe2, 0xeb, 0x27, 0xb2, 0x75],
    [0x09, 0x83, 0x2c, 0x1a, 0x1b, 0x6e, 0x5a, 0xa0, 0x52, 0x3b, 0xd6, 0xb3, 0x29, 0xe3, 0x2f, 0x84],
    [0x53, 0xd1, 0x00, 0xed, 0x20, 0xfc, 0xb1, 0x5b, 0x6a, 0xcb, 0xbe, 0x39, 0x4a, 0x4c, 0x58, 0xcf],
    [0xd0, 0xef, 0xaa, 0xfb, 0x43, 0x4d, 0x33, 0x85, 0x45, 0xf9, 0x02, 0x7f, 0x50, 0x3c, 0x9f, 0xa8],
    [0x51, 0xa3, 0x40, 0x8f, 0x92, 0x9d, 0x38, 0xf5, 0xbc, 0xb6, 0xda, 0x21, 0x10, 0xff, 0xf3, 0xd2],
    [0xcd, 0x0c, 0x13, 0xec, 0x5f, 0x97, 0x44, 0x17, 0xc4, 0xa7, 0x7e, 0x3d, 0x64, 0x5d, 0x19, 0x73],
    [0x60, 0x81, 0x4f, 0xdc, 0x22, 0x2a, 0x90, 0x88, 0x46, 0xee, 0xb8, 0x14, 0xde, 0x5e, 0x0b, 0xdb],
    [0xe0, 0x32, 0x3a, 0x0a, 0x49, 0x06, 0x24, 0x5c, 0xc2, 0xd3, 0xac, 0x62, 0x91, 0x95, 0xe4, 0x79],
    [0xe7, 0xc8, 0x37, 0x6d, 0x8d, 0xd5, 0x4e, 0xa9, 0x6c, 0x56, 0xf4, 0xea, 0x65, 0x7a, 0xae, 0x08],
    [0xba, 0x78, 0x25, 0x2e, 0x1c, 0xa6, 0xb4, 0xc6, 0xe8, 0xdd, 0x74, 0x1f, 0x4b, 0xbd, 0x8b, 0x8a],
    [0x70, 0x3e, 0xb5, 0x66, 0x48, 0x03, 0xf6, 0x0e, 0x61, 0x35, 0x57, 0xb9, 0x86, 0xc1, 0x1d, 0x9e],
    [0xe1, 0xf8, 0x98, 0x11, 0x69, 0xd9, 0x8e, 0x94, 0x9b, 0x1e, 0x87, 0xe9, 0xce, 0x55, 0x28, 0xdf],
    [0x8c, 0xa1, 0x89, 0x0d, 0xbf, 0xe6, 0x42, 0x68, 0x41, 0x99, 0x2d, 0x0f, 0xb0, 0x54, 0xbb, 0x16]]

/-- `SBOX[a]` (R115). -/
def sbox (a : Byte) : Byte := (sboxRows.getD (a.toNat / 16) []).getD (a.toNat % 16) 0

/-- `2·a` in GF(2^8) (R117). -/
def xtime (a : Byte) : Byte := (a <<< 1) ^^^ (if a.msb then 0x1B else 0x00)

/-- `3·a` in GF(2^8) (R117). -/
def times3 (a : Byte) : Byte := xtime a ^^^ a

/-! ## The steps of a round -/

/-- `SubBytes` (R115). -/
def subBytes (s : Block) : Block := Vector.ofFn fun i : Fin 16 => sbox s[i]

/-- `ShiftRows` (R116): with `i = r + 4c`, byte `i` comes from `r + 4((c + r) mod 4)`. -/
def shiftRows (s : Block) : Block :=
  Vector.ofFn fun i : Fin 16 => s[i.val % 4 + 4 * ((i.val / 4 + i.val % 4) % 4)]'(by omega)

/-- `MixColumns` (R117): in row `r` of its column, `2·a_r ⊕ 3·a_(r+1) ⊕ a_(r+2) ⊕ a_(r+3)`, indices mod 4. -/
def mixColumns (s : Block) : Block :=
  Vector.ofFn fun i : Fin 16 =>
    xtime (s[4 * (i.val / 4) + i.val % 4]'(by omega)) ^^^
      times3 (s[4 * (i.val / 4) + (i.val + 1) % 4]'(by omega)) ^^^
      s[4 * (i.val / 4) + (i.val + 2) % 4]'(by omega) ^^^
      s[4 * (i.val / 4) + (i.val + 3) % 4]'(by omega)

/-- Bytewise exclusive or of two blocks: `AddRoundKey` (R118) and the keystream XOR (R110). -/
def xorBlock (a b : Block) : Block := Vector.ofFn fun i : Fin 16 => a[i] ^^^ b[i]

/-! ## Key expansion -/

/-- `RCON[1..10]` (R119). -/
def rcon : List Byte := [0x01, 0x02, 0x04, 0x08, 0x10, 0x20, 0x40, 0x80, 0x1B, 0x36]

/-- `RotWord`, `SubWord` and the round constant on the last word of a round key (R119). -/
def scheduleCore (rc : Byte) (t : Column) : Column := #v[sbox t[1] ^^^ rc, sbox t[2], sbox t[3], sbox t[0]]

/-- Word `j` of a round key (R119). -/
def keyWord (k : Block) (j : Fin 4) : Column := Vector.ofFn fun i : Fin 4 => k[4 * j.val + i.val]'(by omega)

/-- Bytewise exclusive or of two words. -/
def xorColumn (a b : Column) : Column := Vector.ofFn fun i : Fin 4 => a[i] ^^^ b[i]

/-- The round key after `k` (R119): its four words are `w[i] = w[i-4] ⊕ t`. -/
def nextRoundKey (rc : Byte) (k : Block) : Block :=
  let w0 := xorColumn (keyWord k 0) (scheduleCore rc (keyWord k 3))
  let w1 := xorColumn (keyWord k 1) w0
  let w2 := xorColumn (keyWord k 2) w1
  let w3 := xorColumn (keyWord k 3) w2
  w0 ++ w1 ++ w2 ++ w3

/-- `RK[j]` of a key, `j = 0..10` (R119). -/
def roundKey (k : Block) : Nat → Block
  | 0 => k
  | j + 1 => nextRoundKey (rcon.getD j 0) (roundKey k j)

/-- `KeyExpansion(K)`: the eleven round keys (R119). -/
def keyExpansion (k : Block) : Vector Block 11 := Vector.ofFn fun j : Fin 11 => roundKey k j.val

/-! ## The cipher -/

/-- The state after `r` rounds with MixColumns (R113). -/
def cipherRounds (k p : Block) : Nat → Block
  | 0 => xorBlock p (roundKey k 0)
  | r + 1 => xorBlock (mixColumns (shiftRows (subBytes (cipherRounds k p r)))) (roundKey k (r + 1))

/-- `AES128_Encrypt(K, P)` (R113): nine rounds, then a last one without MixColumns. -/
def aes128Encrypt (k p : Block) : Block :=
  xorBlock (shiftRows (subBytes (cipherRounds k p 9))) (roundKey k 10)

end Sys2Proof.Machine
end

