-- ==== Sys2Proof/Machine/Decrypt.lean ====
section
/-! DEFINITION. Family decrypt: DECR (spec/41_decryptor.md R110 to R112). -/

namespace Sys2Proof.Machine

/-- The scratch state after DECR (R110, R113): started from zero (R111), then the round keys, the cipher state after the
last round and the keystream block (notes/assumptions/11.md). -/
def decryptScratch (key iv : Block) : Scratch :=
  { Scratch.zero with rk := keyExpansion key, s := aes128Encrypt key iv, ks := aes128Encrypt key iv }

/-- `DECR` (R110): `DBLK <- CBLK ⊕ AES128_Encrypt(KEY, IV)`, all 16 bytes in the one step. -/
def execDecr (s : State) : Result :=
  .next ({ s with
    scr := decryptScratch s.key s.iv
    dblk := xorBlock s.cblk (decryptScratch s.key s.iv).ks }.setStage 5)

end Sys2Proof.Machine
end

