-- ==== Sys2Proof/Machine/FrameOps.lean ====
section
/-! DEFINITION. Family frame: CHKFRM, GENIV, LDBLK, FIN (spec/40_sequencer_and_frame.md R96 to R98, R105). -/

namespace Sys2Proof.Machine

/-- `CHKFRM` (R96): the length is tested first (R203). -/
def execChkFrm (s : State) : Result :=
  if s.frameLen < Config.frameMin ∨ s.frameLen > Config.frameMax then .next (raiseReject .length s)
  else if s.frame[0] ≠ Config.marker0 ∨ s.frame[1] ≠ Config.marker1 ∨ s.frame[2] ≠ Config.marker2 then
    .next (raiseReject .marker s)
  else .next (s.setStage 2)

/-- The IV of a frame (R63). -/
def ivOf (frame : FrameBytes) : Block :=
  #v[frame[Config.ivSrc0], frame[Config.ivSrc1], 0, 0, 0, 0, 0, 0, 0, 0, 0, 0, 0, 0, 0, 0]

/-- `GENIV` (R97). -/
def execGenIv (s : State) : Result := .next ({ s with iv := ivOf s.frame }.setStage 3)

/-- The cipher block of a frame of `len` bytes: bytes the frame does not have are zero (R64, R98). -/
def cipherBlockOf (frame : FrameBytes) (len : Nat) : Block :=
  Vector.ofFn fun i : Fin 16 => if Config.cblkOff + i.val < len then frame[10 + i.val]'(by omega) else 0x00

/-- `LDBLK` (R98). -/
def execLdBlk (s : State) : Result := .next ({ s with cblk := cipherBlockOf s.frame s.frameLen }.setStage 4)

/-- `FIN` (R105). -/
def execFin (s : State) : Result := .next (((s.setAccept (s.rej == 0)).setDone true).setStage 0)

end Sys2Proof.Machine
end

