-- ==== Sys2Proof/Machine/HostPort.lean ====
section
/-! DEFINITION. Family host: HRD, HWR, START, RELEASE (spec/40_sequencer_and_frame.md R90 to R93). -/

namespace Sys2Proof.Machine

/-- `HRD addr` (R90). -/
def execHrd (addr : Byte) (s : State) : Result := .next (hostRead addr s)

/-- `HWR addr, v` (R91). -/
def execHwr (addr v : Byte) (s : State) : Result := .next (hostWrite addr v s)

/-- `START` (R92): the CTRL write that selects it; in a state where its condition fails, that write's effect
(notes/assumptions/8.md). -/
def execStart (v : Byte) (s : State) : Result := .next (hostWrite 0x00 v s)

/-- `RELEASE` (R93): the CTRL write that selects it; in a state where its condition fails, that write's effect
(notes/assumptions/8.md). -/
def execRelease (v : Byte) (s : State) : Result := .next (hostWrite 0x00 v s)

end Sys2Proof.Machine
end

