-- ==== Sys2Proof/Machine/RangeClassifier.lean ====
section
/-! DEFINITION. Family range: RNG.V, RNG.I, RNG.E, RNG.P, RNG.L, DUDSUM (spec/45_range_classifier.md R180 to R187). -/

namespace Sys2Proof.Machine

/-- `RNG.V`, battery voltage range (R181). -/
def execRngV (s : State) : Result :=
  .next (s.setDud 2 (isRangeDud (s.available 2) (s.boundValue .vmin) (s.boundValue .vmax) (s.x 2)))

/-- `RNG.I`, battery current range (R182). -/
def execRngI (s : State) : Result :=
  .next (s.setDud 3 (isRangeDud (s.available 3) (s.boundValue .imin) (s.boundValue .imax) (s.x 3)))

/-- `RNG.E`, energy today ceiling (R183). -/
def execRngE (s : State) : Result := .next (s.setDud 4 (isCeilingDud (s.available 4) (s.boundValue .emax) (s.x 4)))

/-- `RNG.P`, PV power ceiling (R184). -/
def execRngP (s : State) : Result := .next (s.setDud 5 (isCeilingDud (s.available 5) (s.boundValue .pmax) (s.x 5)))

/-- `RNG.L`, load current presence (R185): a dud when expected and not available; no range. -/
def execRngL (s : State) : Result := .next (s.setDud 6 (s.loadSup && !s.available 6))

/-- The tolerated duds: FTOL with filtering on, else 0 (R186). -/
def State.toleratedDuds (s : State) : Nat := if s.filterEn then s.tolerance else 0

/-- `DUDSUM` (R186). -/
def execDudSum (s : State) : Result :=
  .next (({ s with duds := BitVec.ofNat 3 (popcount s.dudmask) }.setSuppress
    (decide (popcount s.dudmask > s.toleratedDuds))).setStage 8)

end Sys2Proof.Machine
end

