-- ==== Sys2Proof/Machine/UnpackBm.lean ====
section
/-! DEFINITION. Family unpack, Battery Monitor layout (spec/42_unpack_battery_monitor.md R130 to R139). Every operation
reads DBLK only. -/

namespace Sys2Proof.Machine

/-- `BM.TTG`, time-to-go (R131): the all-ones pattern means infinite. -/
def execBmTtg (s : State) : Result :=
  .next ((unpackPlain fieldBmTtg s).setTtgInf (isSentinel 16 (fieldBmTtg.raw s.dblk)))

/-- `BM.VBAT`, battery voltage (R132). -/
def execBmVbat (s : State) : Result := .next (unpackSigned fieldBmVbat s)

/-- `BM.ALARM`, alarm bitmask (R133). -/
def execBmAlarm (s : State) : Result := .next (unpackPlain fieldBmAlarm s)

/-- `BM.AUXSEL`, aux selector (R134). -/
def execBmAuxSel (s : State) : Result := .next (s.setAuxMode (BitVec.ofNat 2 (auxSelector s.dblk)))

/-- `BM.AUX.0`, aux voltage, signed (R135). -/
def execBmAux0 (s : State) : Result := .next (unpackSigned fieldBmAuxVolt s)

/-- `BM.AUX.1`, mid voltage, unsigned (R135). -/
def execBmAux1 (s : State) : Result := .next (unpackUnsigned fieldBmAuxVolt s)

/-- `BM.AUX.2`, temperature in kelvin, unsigned, not converted (R135). -/
def execBmAux2 (s : State) : Result := .next (unpackUnsigned fieldBmAuxKelvin s)

/-- `BM.AUX.3`, no aux quantity: the fixed display value, not available (R135). -/
def execBmAux3 (s : State) : Result := .next ((s.setX 3 99999).setAvail 3 false)

/-- `BM.IBAT`, battery current, signed 22 bits (R136). -/
def execBmIbat (s : State) : Result := .next (unpackSigned fieldBmIbat s)

/-- `BM.CONS`, consumed charge, unsigned 20 bits (R137). -/
def execBmCons (s : State) : Result := .next (unpackUnsigned fieldBmCons s)

/-- The state-of-charge count: above 1000 it is the out-of-range value 9999 (R138). -/
def socCount (raw : Nat) : Nat := if raw > 1000 then 9999 else raw

/-- `BM.SOC`, state of charge (R138): the clamp and the sentinel test both look at the raw value. -/
def execBmSoc (s : State) : Result :=
  let raw := fieldBmSoc.raw s.dblk
  .next (((s.setX 6 (socCount raw)).setAvail 6 (!isSentinel 10 raw)).setSocClamp (decide (raw > 1000)))

end Sys2Proof.Machine
end

