-- ==== Sys2Proof/Machine/UnpackSc.lean ====
section
/-! DEFINITION. Family unpack, Solar Controller layout (spec/43_unpack_solar_controller.md R150 to R157). Every operation
reads DBLK only. -/

namespace Sys2Proof.Machine

/-- `SC.STATE`, device state (R151). -/
def execScState (s : State) : Result := .next (unpackPlain fieldScState s)

/-- `SC.ERR`, error code (R152). -/
def execScErr (s : State) : Result := .next (unpackPlain fieldScErr s)

/-- `SC.VBAT`, battery voltage (R153). -/
def execScVbat (s : State) : Result := .next (unpackSigned fieldScVbat s)

/-- `SC.IBAT`, battery current (R154). -/
def execScIbat (s : State) : Result := .next (unpackSigned fieldScIbat s)

/-- `SC.EDAY`, energy today (R155). -/
def execScEday (s : State) : Result := .next (unpackUnsigned fieldScEday s)

/-- `SC.PV`, PV power (R156). -/
def execScPv (s : State) : Result := .next (unpackUnsigned fieldScPv s)

/-- `SC.ILOAD`, load current, unsigned 9 bits (R157). -/
def execScIload (s : State) : Result := .next (unpackUnsigned fieldScIload s)

end Sys2Proof.Machine
end

