-- ==== Sys2Proof/Machine/Dispatch.lean ====
section
/-! DEFINITION. One arm per row of spec/opcode_table.json, each one direct call of the row's meaning. -/

namespace Sys2Proof.Machine

def exec (i : Instr) (s : State) : Host.Outcome State Fault Refusal :=
  match i with
  | .hrd addr _ => Sys2Proof.Machine.execHrd addr s
  | .hwr addr v => Sys2Proof.Machine.execHwr addr v s
  | .start v => Sys2Proof.Machine.execStart v s
  | .release v => Sys2Proof.Machine.execRelease v s
  | .chkFrm => Sys2Proof.Machine.execChkFrm s
  | .genIv => Sys2Proof.Machine.execGenIv s
  | .ldBlk => Sys2Proof.Machine.execLdBlk s
  | .decr => Sys2Proof.Machine.execDecr s
  | .bmTtg => Sys2Proof.Machine.execBmTtg s
  | .bmVbat => Sys2Proof.Machine.execBmVbat s
  | .bmAlarm => Sys2Proof.Machine.execBmAlarm s
  | .bmAuxSel => Sys2Proof.Machine.execBmAuxSel s
  | .bmAux0 => Sys2Proof.Machine.execBmAux0 s
  | .bmAux1 => Sys2Proof.Machine.execBmAux1 s
  | .bmAux2 => Sys2Proof.Machine.execBmAux2 s
  | .bmAux3 => Sys2Proof.Machine.execBmAux3 s
  | .bmIbat => Sys2Proof.Machine.execBmIbat s
  | .bmCons => Sys2Proof.Machine.execBmCons s
  | .bmSoc => Sys2Proof.Machine.execBmSoc s
  | .scState => Sys2Proof.Machine.execScState s
  | .scErr => Sys2Proof.Machine.execScErr s
  | .scVbat => Sys2Proof.Machine.execScVbat s
  | .scIbat => Sys2Proof.Machine.execScIbat s
  | .scEday => Sys2Proof.Machine.execScEday s
  | .scPv => Sys2Proof.Machine.execScPv s
  | .scIload => Sys2Proof.Machine.execScIload s
  | .almCode => Sys2Proof.Machine.execAlmCode s
  | .stCode => Sys2Proof.Machine.execStCode s
  | .erCode => Sys2Proof.Machine.execErCode s
  | .rngV => Sys2Proof.Machine.execRngV s
  | .rngI => Sys2Proof.Machine.execRngI s
  | .rngE => Sys2Proof.Machine.execRngE s
  | .rngP => Sys2Proof.Machine.execRngP s
  | .rngL => Sys2Proof.Machine.execRngL s
  | .dudSum => Sys2Proof.Machine.execDudSum s
  | .fin => Sys2Proof.Machine.execFin s

end Sys2Proof.Machine
end

