-- ==== Sys2Proof/Machine/Sequencer.lean ====
section
/-! DEFINITION. What one turn does: the sequencer's step (spec/40_sequencer_and_frame.md R94), a host access (spec/20_memory.md
R40), the reset input (spec/70_reset_and_hazards.md R220), and the order of turns. -/

namespace Sys2Proof.Machine

/-- The operations of one sequencer step, one after the other; their write sets are disjoint and DUDSUM reads what the
RNG operations of its step wrote (R94, R100, R102; notes/assumptions/6.md). -/
def runOps : List Instr → State → Result
  | [], s => .next s
  | i :: is, s =>
    match exec i s with
    | .next t => runOps is t
    | .fault r => .fault r
    | .refused r => .refused r

/-- The stage word the sequencer is at (R81). -/
def State.stageWord (s : State) : StageWord := Sys2Proof.stageWord s.stage s.layout

/-- The next `pc` where the stage sets it and no operation of the stage does: UNP to COD (R100), COD to RNG (R101). -/
def advanceStage (code : BitVec 4) (s : State) : State :=
  if code = 5 then s.setStage 6 else if code = 6 then s.setStage 7 else s

/-- One step of the sequencer (R94): every operation of its stage, then the next `pc`. -/
def sequencerStep (s : State) : Result :=
  match decode (.sequencer s.stageWord (blockWord s.dblk)) with
  | .error _ => .fault (.noStageOperation s.stage)
  | .ok ops =>
    match runOps ops s with
    | .next t => .next (advanceStage s.stage t)
    | .fault r => .fault r
    | .refused r => .refused r

/-- The sequencer's turn: its step if it has one (R94), else nothing. -/
def sequencerTurn (s : State) : Result := if s.busy then sequencerStep s else .next s

/-- The host's turn: the operation its access word is in this state (R60). -/
def hostTurn (w : HostWord) (s : State) : Result := exec (decodeHost w s.ready s.done) s

/-- What a turn does. -/
def takeTurn (t : Turn) (s : State) : Result :=
  match t with
  | .access w => hostTurn w s
  | .sequencer => sequencerTurn s
  | .reset => .next (resetBlock s)

/-- The next turn of the schedule; when none is left the host is silent and the sequencer goes on by itself (R95;
notes/assumptions/1.md). -/
def nextTurn (s : State) : Result :=
  match s.schedule with
  | [] => sequencerTurn s
  | t :: ts => takeTurn t { s with schedule := ts }

/-- The state in which a CTRL write is what its row says: START with READY = 0, RELEASE with READY = 1 and DONE = 1. Any
other host word needs nothing. -/
def hostCondition (w : HostWord) (s : State) : State :=
  if hostIsWrite w && hostAddr w == 0 then
    if (hostData w).getLsbD 0 then s.setReady false else (s.setReady true).setDone true
  else s

/-- The state in which the sequencer is at a stage word: READY = 1, DONE = 0, STAGE and CFG.LAYOUT from the word. -/
def atStage (w : StageWord) (s : State) : State :=
  let t := ((s.setReady true).setDone false).setStage (stageCode w)
  { t with cfg := putBit t.cfg 0 (stageLayout w) }

/-- The state in which the very next step runs the table word of `nbits` bits (notes/assumptions/5.md). -/
def placeTableWord (s : State) (nbits w : Nat) : State :=
  if nbits = 24 then
    let t := hostCondition (BitVec.ofNat 17 w) s
    { t with schedule := .access (BitVec.ofNat 17 w) :: t.schedule }
  else if nbits = 8 then
    let t := atStage (BitVec.ofNat 5 w) s
    { t with schedule := .sequencer :: t.schedule }
  else
    let t := atStage (Sys2Proof.stageWord 5 false) s
    { t with dblk := wordBlock (BitVec.ofNat 128 w), schedule := .sequencer :: t.schedule }

end Sys2Proof.Machine
end

