-- ==== Sys2Proof/Machine/Step.lean ====
section
/-! DEFINITION. One step of the machine: the next turn. -/

namespace Sys2Proof.Machine

/-- One step: one turn of one agent (R50). -/
def step (s : State) : Host.Outcome State Fault Refusal := nextTurn s

/-- The state with a table word stored where the very next step takes it from (notes/assumptions/5.md). -/
def State.withFetchWord (s : State) (nbits w : Nat) : State := placeTableWord s nbits w

end Sys2Proof.Machine
end

