-- ==== Sys2Proof/Machine/Traces.lean ====
section
/-! DEFINITION. The pseudo-operations of spec/30_encoding.md R80 as lists of turns: macros over the host's accesses. -/

namespace Sys2Proof.Machine

/-- `HWR addr, v` as a turn. -/
def turnWrite (addr v : Byte) : Turn := .access (hostWord true addr v)

/-- `HRD addr` as a turn. -/
def turnRead (addr : Byte) : Turn := .access (hostWord false addr 0)

/-- Writes of a list of bytes to ascending addresses from `base`. -/
def writeBytes (base : Nat) : List Byte → List Turn
  | [] => []
  | b :: bs => turnWrite (BitVec.ofNat 8 base) b :: writeBytes (base + 1) bs

/-- `SETKEY k0..k15`. -/
def setKey (k : Block) : List Turn := writeBytes 0x10 k.toList

/-- `SETCFG c`. -/
def setCfg (c : Byte) : List Turn := [turnWrite 0x03 c]

/-- `SETTOL t`. -/
def setTol (t : Byte) : List Turn := [turnWrite 0x05 t]

/-- The address of a bound's low byte (R41). -/
def boundAddr : Bound → Nat
  | .vmin => 0x70
  | .vmax => 0x72
  | .imin => 0x74
  | .imax => 0x76
  | .emax => 0x78
  | .pmax => 0x7A

/-- `SETBOUND name, v`: the low byte, then the high byte. -/
def setBound (b : Bound) (v : Word16) : List Turn :=
  writeBytes (boundAddr b) [v.extractLsb' 0 8, v.extractLsb' 8 8]

/-- `LOADFRAME b0..b(n-1)`. -/
def loadFrame (bs : List Byte) : List Turn := writeBytes 0x20 bs ++ [turnWrite 0x04 (BitVec.ofNat 8 bs.length)]

/-- `GO`. -/
def go : List Turn := [turnWrite 0x00 0x01]

/-- `PROCESS`: the sequencer's turns from START to DONE, eight for an accepted frame, two for a rejected one (R95). -/
def processFrame (accepted : Bool) : List Turn := List.replicate (if accepted then 8 else 2) .sequencer

/-- A list of turns, one after the other (R50). -/
def runTurns : List Turn → State → Result
  | [], s => .next s
  | t :: ts, s =>
    match takeTurn t s with
    | .next u => runTurns ts u
    | .fault r => .fault r
    | .refused r => .refused r

/-- `WAITDONE`: reads of STATUS until bit 0 of the returned byte is 1. `gaps` says how many turns the sequencer takes
after each poll that found it 0; when it is used up, one poll is still made and what it returned stands in `rdata`. -/
def waitDone : List Nat → State → Result
  | [], s => takeTurn (turnRead 0x01) s
  | g :: gs, s =>
    match takeTurn (turnRead 0x01) s with
    | .next t =>
      if t.rdata.getLsbD 0 then .next t
      else
        match runTurns (List.replicate g .sequencer) t with
        | .next u => waitDone gs u
        | .fault r => .fault r
        | .refused r => .refused r
    | .fault r => .fault r
    | .refused r => .refused r

/-- `READV i`: the four bytes of `Vi`, least significant first. -/
def readV (i : Fin 8) : List Turn :=
  [0, 1, 2, 3].map fun k => turnRead (BitVec.ofNat 8 (0x80 + 4 * i.val + k))

/-- The byte a turn hands to the host: what a read returned, nothing for any other turn (R79). -/
def Turn.returned : Turn → State → List Byte
  | .access w, after => if hostIsWrite w then [] else [after.rdata]
  | .sequencer, _ => []
  | .reset, _ => []

/-- The bytes the reads of a list of turns return, in order. -/
def returnedBytes : List Turn → State → List Byte
  | [], _ => []
  | t :: ts, s =>
    match takeTurn t s with
    | .next u => t.returned u ++ returnedBytes ts u
    | .fault _ => []
    | .refused _ => []

/-- The value of `READV i`: the little-endian `tc_32` of the four bytes its reads return. -/
def readValue (i : Fin 8) (s : State) : Int := tc 32 (numberOf (returnedBytes (readV i) s))

/-- `DONEACK`. -/
def doneAck : List Turn := [turnWrite 0x00 0x00]

end Sys2Proof.Machine
end

