-- ==== Sys2Proof/Safety.lean ====
section
/-! DEFINITION. The terms in which claims about the block are stated: runs, the state a frame transaction starts from, the
invariants of the handshake and of the result registers, and the reading the spec gives a decrypted block, written from
its bytes (the columns "bytes and bits" of spec/30_encoding.md R65 and R68), not from the operations. -/

namespace Sys2Proof.Machine

/-! ## Runs -/

/-- `k` steps, stopping at the first stop. -/
def runSteps : Nat → State → Result
  | 0, s => .next s
  | k + 1, s =>
    match step s with
    | .next t => runSteps k t
    | .fault r => .fault r
    | .refused r => .refused r

/-- The registers of the block alone: the model's own fields blanked. -/
def blockOf (s : State) : State := { s with schedule := [], rdata := 0, draws := 0 }

/-! ## Invariants -/

/-- Reserved bits hold 0 (R20 to R24, R18, R48). -/
abbrev ReservedZero (s : State) : Prop :=
  s.ctrl &&& 0xFE = 0 ∧ s.status &&& 0xE0 = 0 ∧ s.cfg &&& 0xF8 = 0 ∧ s.flen &&& 0xE0 = 0 ∧ s.ftol &&& 0xF8 = 0 ∧
    s.misc &&& 0xC0 = 0

/-- The sequencer and the handshake agree: STAGE is a code of R14, it is not IDLE exactly when the sequencer has a step
(R94), and DONE is 1 only while READY is. -/
abbrev SequencerOk (s : State) : Prop :=
  s.stage.toNat ≤ 8 ∧ (s.busy = true ↔ s.stage ≠ 0) ∧ (s.done = true → s.ready = true)

/-- The registers START clears (R35) but for STATUS are zero. -/
abbrev PerFrameZero (s : State) : Prop :=
  s.iv = zeroBlock ∧ s.cblk = zeroBlock ∧ s.dblk = zeroBlock ∧ s.v = Vector.replicate 8 0 ∧ s.avail = 0 ∧
    s.dudmask = 0 ∧ s.duds = 0 ∧ s.misc = 0 ∧ s.almcode = 0

/-- What a rejection leaves (R200, R205): cause 3 never occurs; no cause is recorded before stage FIN; a frame is
accepted when it is done without a cause, and only then; and a rejected frame has left every per-frame register zero. -/
abbrev RejectOk (s : State) : Prop :=
  s.rej ≠ 3 ∧ (s.stage ≠ 0 → s.stage ≠ 8 → s.rej = 0) ∧ (s.busy = true → s.accept = false) ∧
    (s.done = true → (s.accept = true ↔ s.rej = 0)) ∧
    (s.rej ≠ 0 → s.accept = false ∧ s.suppress = false ∧ PerFrameZero s) ∧
    (s.stage = 1 → s.suppress = false ∧ PerFrameZero s)

/-- Every result register is in the range R13 gives the Battery Monitor's fields, V7 is 0 (R12). -/
abbrev BmRanges (s : State) : Prop :=
  (0 ≤ s.x 0 ∧ s.x 0 ≤ 65535) ∧ (-32768 ≤ s.x 1 ∧ s.x 1 ≤ 32767) ∧ (0 ≤ s.x 2 ∧ s.x 2 ≤ 65535) ∧
    ((-32768 ≤ s.x 3 ∧ s.x 3 ≤ 65535) ∨ s.x 3 = 99999) ∧ (-2097152 ≤ s.x 4 ∧ s.x 4 ≤ 2097151) ∧
    (0 ≤ s.x 5 ∧ s.x 5 ≤ 1048575) ∧ ((0 ≤ s.x 6 ∧ s.x 6 ≤ 1000) ∨ s.x 6 = 9999) ∧ s.x 7 = 0

/-- Every result register is in the range R13 gives the Solar Controller's fields, V7 is 0 (R12). -/
abbrev ScRanges (s : State) : Prop :=
  (0 ≤ s.x 0 ∧ s.x 0 ≤ 255) ∧ (0 ≤ s.x 1 ∧ s.x 1 ≤ 255) ∧ (-32768 ≤ s.x 2 ∧ s.x 2 ≤ 32767) ∧
    (-32768 ≤ s.x 3 ∧ s.x 3 ≤ 32767) ∧ (0 ≤ s.x 4 ∧ s.x 4 ≤ 65535) ∧ (0 ≤ s.x 5 ∧ s.x 5 ≤ 65535) ∧
    (0 ≤ s.x 6 ∧ s.x 6 ≤ 511) ∧ s.x 7 = 0

/-- The counts are in the ranges of R13: of the layout of the frame held while READY = 1, and after RELEASE, when the
host may change CFG.LAYOUT, still of one layout or the other. -/
abbrev CountsOk (s : State) : Prop :=
  (BmRanges s ∨ ScRanges s) ∧ (s.ready = true → s.layout = false → BmRanges s) ∧
    (s.ready = true → s.layout = true → ScRanges s)

/-- The result registers and flags hold only what the operations can store: V7 and AVAIL[7] are 0 (R100), the IV's last
14 bytes are 0 (R63), every count is in its field's range (R13), DUDMASK has only bits 2..6 (R16), DUDS counts them
(R17), ALMCODE is 0..16 (R19), and while a frame is held the flags of the other layout are 0 (R16, R19). -/
abbrev ReadingOk (s : State) : Prop :=
  s.v[7] = 0 ∧ s.available 7 = false ∧ (∀ i : Fin 16, 2 ≤ i.val → s.iv[i] = 0) ∧ CountsOk s ∧
    s.dudmask &&& 0x83 = 0 ∧ s.duds.toNat = popcount s.dudmask ∧ s.almcode.toNat ≤ 16 ∧
    (s.ready = true → s.layout = false → s.dudmask = 0) ∧ (s.ready = true → s.layout = true → s.almcode = 0)

/-- The invariant of the whole machine. -/
abbrev Invariant (s : State) : Prop := ReservedZero s ∧ SequencerOk s ∧ RejectOk s ∧ ReadingOk s

/-! ## Frames -/

/-- Bit `i` of a register becomes `b`, every other bit stays. -/
abbrev OnlyBit (r r' : Byte) (i : Nat) (b : Bool) : Prop :=
  r'.getLsbD i = b ∧ ∀ j : Nat, j ≠ i → r'.getLsbD j = r.getLsbD j

/-- Result register `i` becomes the count `z`, availability flag `i` becomes `b`, and nothing else of the machine differs
(R130, R150). -/
abbrev Unpacked (s t : State) (i : Fin 8) (z : Int) (b : Bool) : Prop :=
  t = { s with v := t.v, avail := t.avail } ∧ t.x i = z ∧ (∀ j : Fin 8, j ≠ i → t.v[j] = s.v[j]) ∧
    OnlyBit s.avail t.avail i.val b

/-- Bit `i` of DUDMASK becomes `b`, and nothing else of the machine differs (R180). -/
abbrev DudMarked (s t : State) (i : Nat) (b : Bool) : Prop :=
  t = { s with dudmask := t.dudmask } ∧ OnlyBit s.dudmask t.dudmask i b

/-! ## What a frame holds -/

/-- The frame's length, from the register: `FLEN[4:0]` (R23). -/
def lengthOf (s : State) : Nat := s.flen.toNat % 32

/-- The frame passes the length and marker check (R96). -/
abbrev FrameAccepted (s : State) : Prop :=
  11 ≤ lengthOf s ∧ lengthOf s ≤ 26 ∧ s.frame[0] = 0xE1 ∧ s.frame[1] = 0x02 ∧ s.frame[2] = 0x10

/-- The decrypted block of the frame and key that a state holds (R97, R98, R110). -/
def decryptedBlock (s : State) : Block :=
  xorBlock (cipherBlockOf s.frame (lengthOf s)) (aes128Encrypt s.key (ivOf s.frame))

/-! ## The cipher's definitions (R115, R119) -/

/-- `x^n · a` in GF(2^8). -/
def xtimes : Nat → Byte → Byte
  | 0, a => a
  | n + 1, a => xtime (xtimes n a)

/-- Multiplication in GF(2^8) modulo `x^8 + x^4 + x^3 + x + 1` (41_decryptor.md section 2). -/
def gfMul (a b : Byte) : Byte := (List.range 8).foldl (fun acc i => if b.getLsbD i then acc ^^^ xtimes i a else acc) 0

/-- The affine transform of the S-box (R115). -/
def sboxAffine (b : Byte) : Byte :=
  b ^^^ b.rotateLeft 1 ^^^ b.rotateLeft 2 ^^^ b.rotateLeft 3 ^^^ b.rotateLeft 4 ^^^ 0x63

/-- Byte `j` of the schedule's word `w[i]` (R119): `RK[m]` is the words `w[4m] .. w[4m+3]`. -/
def scheduleByte (k : Block) (i : Nat) (j : Fin 4) : Byte := (roundKey k (i / 4))[4 * (i % 4) + j.val]'(by omega)

/-- Block bit `k`: `D[k div 8][k mod 8]` (R8). -/
def blockBit (d : Block) (k : Fin 128) : Bool := (d[k.val / 8]'(by omega)).getLsbD (k.val % 8)

/-! ## The raw fields of a block, from its bytes (R65, R68) -/

/-- A two-byte field, low byte first (R42). -/
def le16 (lo hi : Byte) : Nat := lo.toNat + 256 * hi.toNat

/-- Battery Monitor current: `DBLK[8][7:2]`, `DBLK[9]`, `DBLK[10]` (R66). -/
def rawBmIbat (d : Block) : Nat := d[8].toNat / 4 + 64 * d[9].toNat + 16384 * d[10].toNat

/-- Consumed charge: `DBLK[11]`, `DBLK[12]`, `DBLK[13][3:0]` (R65). -/
def rawBmCons (d : Block) : Nat := d[11].toNat + 256 * d[12].toNat + 65536 * (d[13].toNat % 16)

/-- State of charge: `DBLK[13][7:4]`, `DBLK[14][5:0]` (R67). -/
def rawBmSoc (d : Block) : Nat := d[13].toNat / 16 + 16 * (d[14].toNat % 64)

/-- Load current: `DBLK[10]`, `DBLK[11][0]` (R68). -/
def rawScIload (d : Block) : Nat := d[10].toNat + 256 * (d[11].toNat % 2)

/-- The aux selector: `DBLK[8][1:0]` (R72). -/
def rawAuxSel (d : Block) : Nat := d[8].toNat % 4

/-- A 16-bit signed count (R70, R139(c)). -/
def signed16 (raw : Nat) : Int := if 32768 ≤ raw then (raw : Int) - 65536 else raw

/-- A 22-bit signed count (R70, R139(c)). -/
def signed22 (raw : Nat) : Int := if 2097152 ≤ raw then (raw : Int) - 4194304 else raw

/-! ## The reading of a block -/

/-- RVAD's DeviceReading (R9). -/
structure Reading where
  counts : List Int
  available : List Bool
  misc : Byte
  almcode : Byte
  duds : List Bool
  dudCount : Nat
  suppress : Bool
  deriving DecidableEq, Repr

/-- The reading the block's registers hold. -/
def readingOf (s : State) : Reading :=
  { counts := [s.x 0, s.x 1, s.x 2, s.x 3, s.x 4, s.x 5, s.x 6, s.x 7]
    available := [s.available 0, s.available 1, s.available 2, s.available 3, s.available 4, s.available 5,
      s.available 6, s.available 7]
    misc := s.misc
    almcode := s.almcode
    duds := [s.dudmask.getLsbD 0, s.dudmask.getLsbD 1, s.dudmask.getLsbD 2, s.dudmask.getLsbD 3,
      s.dudmask.getLsbD 4, s.dudmask.getLsbD 5, s.dudmask.getLsbD 6, s.dudmask.getLsbD 7]
    dudCount := s.duds.toNat
    suppress := s.suppress }

/-- The aux count (R135). -/
def bmAuxCount (d : Block) : Int :=
  if rawAuxSel d = 0 then signed16 (le16 d[6] d[7]) else if rawAuxSel d = 3 then 99999 else le16 d[6] d[7]

/-- Whether the aux value is available (R135). -/
def bmAuxAvailable (d : Block) : Bool :=
  if rawAuxSel d = 0 then le16 d[6] d[7] % 32768 != 32767 else if rawAuxSel d = 3 then false else le16 d[6] d[7] != 65535

/-- MISC of a Battery Monitor reading (R18, R131, R134, R138). -/
def bmMisc (d : Block) : Byte :=
  BitVec.ofNat 8 ((if le16 d[0] d[1] = 65535 then 1 else 0) + (if rawBmSoc d > 1000 then 2 else 0) + 16 * rawAuxSel d)

/-- The alarm code of a 16-bit mask (R74): of the masks `2^n`, `n ≤ 13`, and `2^14`, `2^15`; zero; all others. -/
def alarmCodeOf (a : Nat) : Byte :=
  if a = 0 then 0
  else
    match (List.range 14).find? fun n => a == 2 ^ n with
    | some n => BitVec.ofNat 8 (n + 1)
    | none => if a = 2 ^ 14 ∨ a = 2 ^ 15 then 16 else 15

/-- The Battery Monitor reading of a block (R65, R131 to R138, R166, R187). -/
def bmReading (d : Block) : Reading :=
  { counts := [le16 d[0] d[1], signed16 (le16 d[2] d[3]), le16 d[4] d[5], bmAuxCount d, signed22 (rawBmIbat d), rawBmCons d,
      if rawBmSoc d > 1000 then 9999 else rawBmSoc d, 0]
    available := [true, le16 d[2] d[3] % 32768 != 32767, true, bmAuxAvailable d, rawBmIbat d % 2097152 != 2097151,
      rawBmCons d != 1048575, rawBmSoc d != 1023, false]
    misc := bmMisc d
    almcode := alarmCodeOf (le16 d[4] d[5])
    duds := List.replicate 8 false
    dudCount := 0
    suppress := false }

/-- The dud flags of a Solar Controller reading, V2 to V6 (R181 to R185). -/
def scDuds (s : State) (d : Block) : List Bool :=
  [le16 d[2] d[3] % 32768 == 32767 || signed16 (le16 d[2] d[3]) < s.vmin.toInt || signed16 (le16 d[2] d[3]) > s.vmax.toInt,
    le16 d[4] d[5] % 32768 == 32767 || signed16 (le16 d[4] d[5]) < s.imin.toInt || signed16 (le16 d[4] d[5]) > s.imax.toInt,
    le16 d[6] d[7] == 65535 || le16 d[6] d[7] > s.emax.toNat,
    le16 d[8] d[9] == 65535 || le16 d[8] d[9] > s.pmax.toNat,
    s.cfg.getLsbD 2 && rawScIload d == 511]

/-- The Solar Controller reading of a block, by the bounds and configuration of a state (R68, R151 to R157, R168, R169,
R181 to R186). -/
def scReading (s : State) (d : Block) : Reading :=
  { counts := [d[0].toNat, d[1].toNat, signed16 (le16 d[2] d[3]), signed16 (le16 d[4] d[5]), le16 d[6] d[7], le16 d[8] d[9],
      rawScIload d, 0]
    available := [true, true, le16 d[2] d[3] % 32768 != 32767, le16 d[4] d[5] % 32768 != 32767, le16 d[6] d[7] != 65535,
      le16 d[8] d[9] != 65535, rawScIload d != 511, false]
    misc := BitVec.ofNat 8 ((if d[0].toNat ≤ 7 then 4 else 0) + (if d[1].toNat ≤ 8 then 8 else 0))
    almcode := 0
    duds := [false, false] ++ scDuds s d ++ [false]
    dudCount := (scDuds s d).count true
    suppress := decide ((scDuds s d).count true > if s.cfg.getLsbD 1 then s.ftol.toNat % 8 else 0) }

/-- The reading of the frame a state holds, by its configuration. -/
def expectedReading (s : State) : Reading :=
  if s.cfg.getLsbD 0 then scReading s (decryptedBlock s) else bmReading (decryptedBlock s)

/-- What the host configures and loads is the same (R35): configuration, bounds, key, frame and length. -/
abbrev SameInputs (s t : State) : Prop :=
  t.cfg = s.cfg ∧ t.flen = s.flen ∧ t.ftol = s.ftol ∧ t.vmin = s.vmin ∧ t.vmax = s.vmax ∧ t.imin = s.imin ∧
    t.imax = s.imax ∧ t.emax = s.emax ∧ t.pmax = s.pmax ∧ t.key = s.key ∧ t.frame = s.frame

/-- The frame bytes some operation reads (R61): the marker, the IV source, and the ciphertext below the frame's length. -/
def frameByteRead (len i : Nat) : Bool :=
  i == 0 || i == 1 || i == 2 || i == 7 || i == 8 || (decide (10 ≤ i) && decide (i < len))

/-- The bits a host write can set in the byte of a register (R91): none of a read-only register, none a read can show of
KEY, the significant bits of CFG, FLEN and FTOL. -/
def Reg.readBackMask : Reg → Byte
  | .cfg => 0x07
  | .flen => 0x1F
  | .ftol => 0x07
  | .frame _ => 0xFF
  | .bound _ _ => 0xFF
  | _ => 0x00

end Sys2Proof.Machine
end

