-- ==== Sys2Proof/Certificates/Slice0/Obligations.lean ====
section
/-! DEFINITION. The statements about the model. Each docstring names the rule of spec/ it formalises; where a clause is
the model's own choice it names the entry of notes/assumptions/. -/

open Sys2Proof Sys2Proof.Machine

/-! ## Reset -/

/-- R34: after reset every register of the block holds zero, SCR among them. -/
def Obligations.ResetLeavesEveryRegisterZero : Prop :=
  State.reset.v = Vector.replicate 8 0 ∧ State.reset.stage = 0 ∧ State.reset.avail = 0 ∧ State.reset.dudmask = 0 ∧
    State.reset.duds = 0 ∧ State.reset.misc = 0 ∧ State.reset.almcode = 0 ∧ State.reset.ctrl = 0 ∧
    State.reset.status = 0 ∧ State.reset.cfg = 0 ∧ State.reset.flen = 0 ∧ State.reset.ftol = 0 ∧
    State.reset.vmin = 0 ∧ State.reset.vmax = 0 ∧ State.reset.imin = 0 ∧ State.reset.imax = 0 ∧
    State.reset.emax = 0 ∧ State.reset.pmax = 0 ∧ (∀ i : Fin 16, State.reset.key[i] = 0) ∧
    (∀ i : Fin 26, State.reset.frame[i] = 0) ∧ (∀ i : Fin 16, State.reset.iv[i] = 0) ∧
    (∀ i : Fin 16, State.reset.cblk[i] = 0) ∧ (∀ i : Fin 16, State.reset.dblk[i] = 0) ∧
    (∀ j : Fin 11, ∀ i : Fin 16, State.reset.scr.rk[j][i] = 0) ∧ (∀ i : Fin 16, State.reset.scr.s[i] = 0) ∧
    (∀ i : Fin 16, State.reset.scr.ks[i] = 0)

/-- 70_reset_and_hazards.md section 1: the reset input may act at any time, a frame in flight included, and leaves the
block as after reset. That the schedule goes on is the model's choice (notes/assumptions/14.md). -/
def Obligations.ResetInputClearsTheBlockAtAnyTime : Prop :=
  ∀ (s : State) (rest : List Turn), s.schedule = .reset :: rest →
    ∃ t, step s = .next t ∧ blockOf t = State.reset ∧ t.schedule = rest

/-! ## Decoding -/

/-- Words of program P1 and stage words, written from R78 and R81, decode to the operations the spec names. -/
def Obligations.WordsOfTheSpecDecodeAsWritten : Prop :=
  decodeHost 0x1041A false false = .hwr 0x04 0x1A ∧ decodeHost 0x11F0F false false = .hwr 0x1F 0x0F ∧
    decodeHost 0x00103 true true = .hrd 0x01 0x03 ∧ decodeHost 0x10001 false false = .start 0x01 ∧
    decodeHost 0x10000 true true = .release 0x00 ∧ decodeHost 0x10001 true false = .hwr 0x00 0x01 ∧
    decode (.sequencer 0b00010 0) = .ok [.chkFrm] ∧ decode (.sequencer 0b01000 0) = .ok [.decr] ∧
    decode (.sequencer 0b01100 0) = .ok [.almCode] ∧ decode (.sequencer 0b01101 0) = .ok [.stCode, .erCode] ∧
    decode (.sequencer 0b01110 0) = .ok [.dudSum] ∧ decode (.sequencer 0b10000 0) = .ok [.fin] ∧
    decode (.sequencer 0b00100 0) = .ok [.genIv] ∧ decode (.sequencer 0b00110 0) = .ok [.ldBlk] ∧
    decode (.sequencer 0b01011 0) = .ok [.scState, .scErr, .scVbat, .scIbat, .scEday, .scPv, .scIload] ∧
    decode (.sequencer 0b01111 0) = .ok [.rngV, .rngI, .rngE, .rngP, .rngL, .dudSum] ∧
    decode (.sequencer 0b01010 0x20000000000000000) =
      .ok [.bmTtg, .bmVbat, .bmAlarm, .bmAuxSel, .bmAux2, .bmIbat, .bmCons, .bmSoc]

/-- 30_encoding.md section 11: decoding what the encoder writes gives the instruction back, for every well-formed
instruction with every operand: alone for a host access, among the operations of its step for a sequencer operation. -/
def Obligations.DecodingAnEncodedInstructionGivesItBack : Prop :=
  ∀ i : Instr, i.wf = true →
    match encode i with
    | .host w ready done => decode (.host w ready done) = .ok [i]
    | .sequencer w b => ∃ ops, decode (.sequencer w b) = .ok ops ∧ i ∈ ops

/-- R78: no bit of a host access word is dropped: encoding what a word decodes to gives the word back. -/
def Obligations.EncodingADecodedHostWordGivesItBack : Prop :=
  ∀ (w : HostWord) (ready done : Bool), (decodeHost w ready done).wf = true ∧
    ∃ ready' done', encode (decodeHost w ready done) = .host w ready' done'

/-- 30_encoding.md section 11 and the rows of opcode_table.json: a selector selects exactly the instructions whose row
it matches (mask, match, condition, operands), HWR only where neither START nor RELEASE is selected. -/
def Obligations.DecoderSelectsExactlyTheRowsThatMatch : Prop :=
  ∀ (sel : Selector) (ops : List Instr), decode sel = .ok ops → ∀ i : Instr, i ∈ ops ↔ i.selectedBy sel = true

/-- 10_state.md R14 and 30_encoding.md section 8: a selector decodes exactly when it is well formed; a stage word that is
not holds code 0 or 9..15 and is refused with the code it holds. The spec says that these codes do not occur while the
sequencer has a step; that the decoder refuses them by name is the model's choice (notes/assumptions/7.md). -/
def Obligations.OnlyStagesOneToEightDecode : Prop :=
  (∀ sel : Selector, sel.wf = true → ∃ ops, decode sel = .ok ops) ∧
    ∀ (w : StageWord) (b : BlockWord), Selector.wf (.sequencer w b) = false →
      decode (.sequencer w b) = .error (.noOperationAtStage (stageCode w)) ∧
        (stageCode w = 0 ∨ 9 ≤ (stageCode w).toNat)

/-! ## One step -/

/-- A step runs what is decoded (20_memory.md R40, 40_sequencer_and_frame.md R94): a host turn is one operation, the one
its word is in this state; a sequencer's turn is every operation of its stage, then `pc` moves on where the stage sets it
(UNP to COD, COD to RNG). That the operations of a stage run one after another in list order, with `pc` of UNP and COD
written after them, is deduced (notes/assumptions/6.md). When no turn is left the sequencer goes on by itself (the model's
choice, notes/assumptions/1.md). -/
def Obligations.StepRunsTheDecodedOperations : Prop :=
  (∀ (s : State) (w : HostWord) (rest : List Turn), s.schedule = .access w :: rest →
      step s = exec (decodeHost w s.ready s.done) { s with schedule := rest }) ∧
    (∀ (s : State) (ops : List Instr), s.busy = true → s.schedule = [] →
      decode (.sequencer s.stageWord (blockWord s.dblk)) = .ok ops →
      ∃ t, runOps ops s = .next t ∧
        step s = .next (if s.stage = 5 then t.setStage 6 else if s.stage = 6 then t.setStage 7 else t)) ∧
    (∀ (s : State) (ops : List Instr) (rest : List Turn), s.busy = true → s.schedule = .sequencer :: rest →
      decode (.sequencer s.stageWord (blockWord s.dblk)) = .ok ops →
      ∃ t, runOps ops { s with schedule := rest } = .next t ∧
        step s = .next (if s.stage = 5 then t.setStage 6 else if s.stage = 6 then t.setStage 7 else t))

/-- 40_sequencer_and_frame.md R94: the sequencer has no step unless READY = 1 and DONE = 0. That the model then answers
the same state, and passes a turn it was offered, is its own choice (notes/assumptions/1.md). -/
def Obligations.IdleSequencerChangesNothing : Prop :=
  ∀ s : State, s.busy = false →
    (s.schedule = [] → step s = .next s) ∧
      (∀ rest, s.schedule = .sequencer :: rest → step s = .next { s with schedule := rest })

/-! ## The host port -/

/-- R90: what a host read returns, for every address and state; it changes nothing of the block. The byte is handed over
in `rdata` (notes/assumptions/2.md). While a frame is processed a per-frame register gives an unspecified byte, of which
STATUS.DONE is exact and the bits above STAGE's and DUDS's widths are 0 (R41, 93_implementation_defined.md U1,
notes/assumptions/3.md). -/
def Obligations.HostReadReturnsTheRegisterByte : Prop :=
  ∀ (a v : Byte) (s : State), ∃ t, exec (.hrd a v) s = .next t ∧
    t = { s with rdata := t.rdata, draws := t.draws } ∧
    (if (0x0B ≤ a.toNat ∧ a.toNat ≤ 0x0F) ∨ (0x3A ≤ a.toNat ∧ a.toNat ≤ 0x3F) ∨ (0x7C ≤ a.toNat ∧ a.toNat ≤ 0x7F) ∨
        0xA0 ≤ a.toNat then t.rdata = 0
    else if 0x10 ≤ a.toNat ∧ a.toNat ≤ 0x1F then t.rdata = 0
    else if s.busy = true ∧ (a.toNat = 0x01 ∨ a.toNat = 0x02 ∨ (0x06 ≤ a.toNat ∧ a.toNat ≤ 0x0A) ∨
        (0x40 ≤ a.toNat ∧ a.toNat ≤ 0x6F) ∨ 0x80 ≤ a.toNat) then
      (a.toNat = 0x01 → t.rdata.getLsbD 0 = s.done) ∧ (a.toNat = 0x02 → t.rdata &&& 0xF0 = 0) ∧
        (a.toNat = 0x06 → t.rdata &&& 0xF8 = 0)
    else t.rdata = s.peek a)

/-- R41, R42(b): the byte at every address of the map, multi-byte registers least significant byte first, array bytes in
index order. Last clause: 30_encoding.md R80 (READV): outside the processing window the four reads of READV give the
value of the result register. -/
def Obligations.EveryAddressReadsItsRegister : Prop :=
  ∀ s : State,
    s.peek 0x00 = s.ctrl &&& 0x01 ∧ s.peek 0x01 = s.status &&& 0x1F ∧ (s.peek 0x02).toNat = s.stage.toNat ∧
      s.peek 0x03 = s.cfg &&& 0x07 ∧ s.peek 0x04 = s.flen &&& 0x1F ∧ s.peek 0x05 = s.ftol &&& 0x07 ∧
      (s.peek 0x06).toNat = s.duds.toNat ∧ s.peek 0x07 = s.dudmask ∧ s.peek 0x08 = s.avail ∧
      s.peek 0x09 = s.misc &&& 0x3F ∧ s.peek 0x0A = s.almcode ∧
      (∀ i : Fin 26, s.peek (BitVec.ofNat 8 (0x20 + i.val)) = s.frame[i]) ∧
      (∀ i : Fin 16, s.peek (BitVec.ofNat 8 (0x10 + i.val)) = 0 ∧
        s.peek (BitVec.ofNat 8 (0x40 + i.val)) = s.iv[i] ∧ s.peek (BitVec.ofNat 8 (0x50 + i.val)) = s.cblk[i] ∧
        s.peek (BitVec.ofNat 8 (0x60 + i.val)) = s.dblk[i]) ∧
      s.peek 0x71 ++ s.peek 0x70 = s.vmin ∧ s.peek 0x73 ++ s.peek 0x72 = s.vmax ∧
      s.peek 0x75 ++ s.peek 0x74 = s.imin ∧ s.peek 0x77 ++ s.peek 0x76 = s.imax ∧
      s.peek 0x79 ++ s.peek 0x78 = s.emax ∧ s.peek 0x7B ++ s.peek 0x7A = s.pmax ∧
      (∀ i : Fin 8, s.peek (BitVec.ofNat 8 (0x83 + 4 * i.val)) ++ s.peek (BitVec.ofNat 8 (0x82 + 4 * i.val)) ++
        s.peek (BitVec.ofNat 8 (0x81 + 4 * i.val)) ++ s.peek (BitVec.ofNat 8 (0x80 + 4 * i.val)) = s.v[i]) ∧
      (s.busy = false → ∀ i : Fin 8, readValue i s = s.x i)

/-- 20_memory.md R45, R48 and 40_sequencer_and_frame.md R91: while the buffers are unlocked a write to any address but
CTRL changes, of all that can be read back, only the writable bits of that address's byte, and no register but those the
host may write. -/
def Obligations.HostWriteChangesOnlyItsByte : Prop :=
  ∀ (a v : Byte) (s : State), a ≠ 0 → s.ready = false →
    ∃ t, exec (.hwr a v) s = .next t ∧
      t = { s with
        cfg := t.cfg, flen := t.flen, ftol := t.ftol, vmin := t.vmin, vmax := t.vmax, imin := t.imin,
        imax := t.imax, emax := t.emax, pmax := t.pmax, key := t.key, frame := t.frame } ∧
      (let m := match regAt a with
        | none => 0
        | some r => r.readBackMask
      t.peek a = (v &&& m) ||| (s.peek a &&& ~~~m)) ∧
      (∀ b : Byte, b ≠ a → t.peek b = s.peek b) ∧
      ((a.toNat < 0x10 ∨ 0x1F < a.toNat) → t.key = s.key)

/-- 40_sequencer_and_frame.md R91: what a write stores at each writable address: `v[2:0]` of CFG and FTOL, `v[4:0]` of
FLEN, the byte of KEY and FRAME, the low or high byte of a bound. -/
def Obligations.HostWriteStoresInEachRegister : Prop :=
  ∀ (v : Byte) (s : State), s.ready = false →
    exec (.hwr 0x03 v) s = .next { s with cfg := v &&& 0x07 } ∧
      exec (.hwr 0x04 v) s = .next { s with flen := v &&& 0x1F } ∧
      exec (.hwr 0x05 v) s = .next { s with ftol := v &&& 0x07 } ∧
      (∀ i : Fin 16, exec (.hwr (BitVec.ofNat 8 (0x10 + i.val)) v) s = .next { s with key := s.key.set i.val v }) ∧
      (∀ i : Fin 26, exec (.hwr (BitVec.ofNat 8 (0x20 + i.val)) v) s =
        .next { s with frame := s.frame.set i.val v }) ∧
      exec (.hwr 0x70 v) s = .next { s with vmin := s.vmin.extractLsb' 8 8 ++ v } ∧
      exec (.hwr 0x71 v) s = .next { s with vmin := v ++ s.vmin.extractLsb' 0 8 } ∧
      exec (.hwr 0x72 v) s = .next { s with vmax := s.vmax.extractLsb' 8 8 ++ v } ∧
      exec (.hwr 0x73 v) s = .next { s with vmax := v ++ s.vmax.extractLsb' 0 8 } ∧
      exec (.hwr 0x74 v) s = .next { s with imin := s.imin.extractLsb' 8 8 ++ v } ∧
      exec (.hwr 0x75 v) s = .next { s with imin := v ++ s.imin.extractLsb' 0 8 } ∧
      exec (.hwr 0x76 v) s = .next { s with imax := s.imax.extractLsb' 8 8 ++ v } ∧
      exec (.hwr 0x77 v) s = .next { s with imax := v ++ s.imax.extractLsb' 0 8 } ∧
      exec (.hwr 0x78 v) s = .next { s with emax := s.emax.extractLsb' 8 8 ++ v } ∧
      exec (.hwr 0x79 v) s = .next { s with emax := v ++ s.emax.extractLsb' 0 8 } ∧
      exec (.hwr 0x7A v) s = .next { s with pmax := s.pmax.extractLsb' 8 8 ++ v } ∧
      exec (.hwr 0x7B v) s = .next { s with pmax := v ++ s.pmax.extractLsb' 0 8 }

/-- 20_memory.md R45: a write to any register but CTRL twice is the same as once, locked or not. -/
def Obligations.WritingTwiceIsWritingOnce : Prop :=
  ∀ (a v : Byte) (s : State), a ≠ 0 → ∃ t, exec (.hwr a v) s = .next t ∧ exec (.hwr a v) t = .next t

/-- 20_memory.md R46: while READY = 1 a write to any address but CTRL is dropped. -/
def Obligations.WriteIsDroppedWhileReady : Prop :=
  ∀ (a v : Byte) (s : State), s.ready = true → a ≠ 0 → exec (.hwr a v) s = .next s

/-- R92: START, as the operation and as the CTRL write that selects it; `v[7:1]` is ignored. -/
def Obligations.StartClearsThePerFrameState : Prop :=
  ∀ (v : Byte) (s : State), v.getLsbD 0 = true → s.ready = false →
    exec (.start v) s = .next
      { s with
        ctrl := s.ctrl ||| 0x01, status := 0, iv := zeroBlock, cblk := zeroBlock, dblk := zeroBlock,
        v := Vector.replicate 8 0, avail := 0, dudmask := 0, duds := 0, misc := 0, almcode := 0, stage := 1 } ∧
      exec (.hwr 0x00 v) s = exec (.start v) s

/-- R93: RELEASE clears READY and DONE and nothing else, as the operation and as the CTRL write that selects it; and the
CTRL writes without effect: a second start, and a zero while idle or while the frame is in flight. -/
def Obligations.ReleaseClearsReadyAndDone : Prop :=
  ∀ (v : Byte) (s : State),
    (v.getLsbD 0 = false → s.ready = true → s.done = true →
      exec (.release v) s = .next { s with ctrl := s.ctrl &&& 0xFE, status := s.status &&& 0xFE } ∧
        exec (.hwr 0x00 v) s = exec (.release v) s) ∧
      (v.getLsbD 0 = true → s.ready = true → exec (.hwr 0x00 v) s = .next s) ∧
      (v.getLsbD 0 = false → s.ready = false → exec (.hwr 0x00 v) s = .next s) ∧
      (v.getLsbD 0 = false → s.ready = true → s.done = false → exec (.hwr 0x00 v) s = .next s)

/-- 10_state.md R26, 60_exceptions.md R208: no host read depends on KEY: two states that differ in the key only give the
host the same byte at every address. -/
def Obligations.NoReadRevealsTheKey : Prop :=
  ∀ (a v : Byte) (s : State) (k : Block), ∃ t u, exec (.hrd a v) s = .next t ∧
    exec (.hrd a v) { s with key := k } = .next u ∧ u = { t with key := k }

/-- 20_memory.md R46, R47 and 40_sequencer_and_frame.md R93: while a frame is processed no host access changes a register
of the block. -/
def Obligations.NoAccessDisturbsAFrameInFlight : Prop :=
  ∀ (w : HostWord) (s : State), s.busy = true → ∃ t, hostTurn w s = .next t ∧ blockOf t = blockOf s

/-- 30_encoding.md R80 (SETBOUND): the two writes of the pseudo-operation leave the bound at the value, low byte at the
lower address, and nothing else of the block changed. -/
def Obligations.SetBoundStoresTheValue : Prop :=
  ∀ (b : Bound) (x : Word16) (s : State), s.ready = false →
    ∃ t, runTurns (setBound b x) s = .next t ∧ t.bound b = x ∧ (∀ c, c ≠ b → t.bound c = s.bound c) ∧
      t = { s with
        vmin := t.vmin, vmax := t.vmax, imin := t.imin, imax := t.imax, emax := t.emax, pmax := t.pmax }

/-- 30_encoding.md R80 (LOADFRAME): the writes of the pseudo-operation, for a frame that fits, leave its bytes in FRAME in
order and its length in FLEN; the bytes past its end and every other register stay. -/
def Obligations.LoadFrameStoresTheFrame : Prop :=
  ∀ (bs : List Byte) (s : State), s.ready = false → bs.length ≤ 26 →
    ∃ t, runTurns (loadFrame bs) s = .next t ∧ t = { s with frame := t.frame, flen := t.flen } ∧
      t.flen.toNat = bs.length ∧
      ∀ i : Fin 26, t.frame[i] = if h : i.val < bs.length then bs[i.val] else s.frame[i]

/-! ## The frame operations -/

/-- R96: CHKFRM accepts a length of 11..26 and the marker E1 02 10; it tests the length first; a rejection records its
cause in STATUS.REJ and goes to stage FIN (R205). Nothing else changes. -/
def Obligations.ChkfrmAcceptsOrRejects : Prop :=
  ∀ s : State, ∃ t, exec .chkFrm s = .next t ∧ t = { s with status := t.status, stage := t.stage } ∧
    t.status &&& 0xF3 = s.status &&& 0xF3 ∧
    (if lengthOf s < 11 ∨ 26 < lengthOf s then t.rej = 1 ∧ t.stage = 8
    else if s.frame[0] = 0xE1 ∧ s.frame[1] = 0x02 ∧ s.frame[2] = 0x10 then t.status = s.status ∧ t.stage = 2
    else t.rej = 2 ∧ t.stage = 8)

/-- R97: GENIV. -/
def Obligations.GenivTakesFrameBytesSevenAndEight : Prop :=
  ∀ s : State, ∃ t, exec .genIv s = .next t ∧ t = { s with iv := t.iv, stage := 3 } ∧ t.iv[0] = s.frame[7] ∧
    t.iv[1] = s.frame[8] ∧ (∀ i : Fin 16, 2 ≤ i.val → t.iv[i] = 0)

/-- R98: LDBLK copies the ciphertext bytes the frame has and fills the rest with zero. -/
def Obligations.LdblkCopiesAndZeroFills : Prop :=
  ∀ s : State, ∃ t, exec .ldBlk s = .next t ∧ t = { s with cblk := t.cblk, stage := 4 } ∧
    ∀ i : Fin 16, t.cblk[i] = if 10 + i.val < lengthOf s then s.frame[10 + i.val]'(by omega) else 0

/-- R105: FIN. -/
def Obligations.FinMarksTheFrameDone : Prop :=
  ∀ s : State, ∃ t, exec .fin s = .next t ∧ t = { s with status := t.status, stage := 0 } ∧ t.done = true ∧
    (t.accept = true ↔ s.rej = 0) ∧ t.status &&& 0xFC = s.status &&& 0xFC

/-! ## The decryptor -/

/-- R110, R113, R118: DECR writes all 16 bytes of DBLK as CBLK ⊕ SCR.KS and goes to stage UNP; of the rest it writes SCR
only. Its keystream block SCR.KS is AES128_Encrypt(KEY, IV), that is, the end of the chain of cipher states `st`: IV ⊕
RK[0], then nine rounds of SubBytes, ShiftRows, MixColumns and AddRoundKey, then a last round without MixColumns. -/
def Obligations.DecrXorsTheKeystream : Prop :=
  ∀ s : State, ∃ t, exec .decr s = .next t ∧ t = { s with dblk := t.dblk, scr := t.scr, stage := 5 } ∧
    (∀ i : Fin 16, t.dblk[i] = s.cblk[i] ^^^ t.scr.ks[i]) ∧ t.scr.ks = aes128Encrypt s.key s.iv ∧
    ∃ st : Nat → Block,
      (∀ i : Fin 16, (st 0)[i] = s.iv[i] ^^^ (roundKey s.key 0)[i]) ∧
        (∀ r : Nat, 1 ≤ r → r ≤ 9 → ∀ i : Fin 16,
          (st r)[i] = (mixColumns (shiftRows (subBytes (st (r - 1)))))[i] ^^^ (roundKey s.key r)[i]) ∧
        ∀ i : Fin 16, t.scr.ks[i] = (shiftRows (subBytes (st 9)))[i] ^^^ (roundKey s.key 10)[i]

/-- 41_decryptor.md R112: decryption and encryption are the same keystream XOR: DECR of a decrypted block gives the
cipher block back. -/
def Obligations.DecrTwiceRestoresTheCipherBlock : Prop :=
  ∀ s : State, ∃ t u, exec .decr s = .next t ∧ exec .decr { t with cblk := t.dblk } = .next u ∧ u.dblk = s.cblk

/-- R115: every S-box entry is the affine transform of the multiplicative inverse (of 0 for 0), and SubBytes applies the
table to each byte. -/
def Obligations.SboxIsTheAffineImageOfTheInverse : Prop :=
  sbox 0 = sboxAffine 0 ∧ (∀ a : Byte, a ≠ 0 → ∃ b : Byte, gfMul a b = 1 ∧ sbox a = sboxAffine b) ∧
    ∀ (s : Block) (i : Fin 16), (subBytes s)[i] = sbox s[i]

/-- R116: ShiftRows rotates row `r` left by `r` columns. -/
def Obligations.ShiftRowsRotatesEachRow : Prop :=
  ∀ (s : Block) (r c : Fin 4),
    (shiftRows s)[r.val + 4 * c.val]'(by omega) = s[r.val + 4 * ((c.val + r.val) % 4)]'(by omega)

/-- R117: MixColumns, the four equations of each column. -/
def Obligations.MixColumnsMixesEachColumn : Prop :=
  ∀ (s : Block) (c : Fin 4),
    let a : Fin 4 → Byte := fun r => s[4 * c.val + r.val]'(by omega)
    let z : Fin 4 → Byte := fun r => (mixColumns s)[4 * c.val + r.val]'(by omega)
    z 0 = gfMul 2 (a 0) ^^^ gfMul 3 (a 1) ^^^ a 2 ^^^ a 3 ∧ z 1 = a 0 ^^^ gfMul 2 (a 1) ^^^ gfMul 3 (a 2) ^^^ a 3 ∧
      z 2 = a 0 ^^^ a 1 ^^^ gfMul 2 (a 2) ^^^ gfMul 3 (a 3) ∧ z 3 = gfMul 3 (a 0) ^^^ a 1 ^^^ a 2 ^^^ gfMul 2 (a 3)

/-- R119: the key schedule word by word: `w[0..3]` is the key, and each later word is `w[i-4]` XOR the word before it,
rotated, substituted and given its round constant `x^(i/4-1)` when `i` is a multiple of 4. -/
def Obligations.KeyScheduleFollowsItsRecurrence : Prop :=
  ∀ k : Block, (∀ (i j : Fin 4), scheduleByte k i.val j = k[4 * i.val + j.val]'(by omega)) ∧
    ∀ i : Nat, 4 ≤ i → i ≤ 43 → ∀ j : Fin 4,
      scheduleByte k i j = scheduleByte k (i - 4) j ^^^
        (if i % 4 = 0 then sbox (scheduleByte k (i - 1) (j + 1)) ^^^ (if j = 0 then xtimes (i / 4 - 1) 1 else 0)
        else scheduleByte k (i - 1) j)

/-! ## Operand assembly -/

/-- 00_scope.md R8: a bit of `extract(D, off, w)` is the block bit at `off` plus its index, and there are only `w`. -/
def Obligations.ExtractTakesTheBitsOfTheField : Prop :=
  ∀ (d : Block) (off w j : Nat) (h : off + w ≤ 128),
    (extract d off w).testBit j = if hj : j < w then blockBit d ⟨off + j, by omega⟩ else false

/-- 00_scope.md R8: `tc_w` is sign extension read as an integer. -/
def Obligations.TwosComplementIsSignExtension : Prop :=
  ∀ (w : Nat) (r : BitVec w), 1 ≤ w → w ≤ 32 →
    tc w r.toNat = r.toInt ∧ BitVec.ofInt 32 (tc w r.toNat) = r.signExtend 32

/-! ## Battery Monitor fields -/

/-- R131: BM.TTG. -/
def Obligations.BmTtgUnpacksTimeToGo : Prop :=
  ∀ s : State, ∃ t, exec .bmTtg s = .next t ∧
    Unpacked s { t with misc := s.misc } 0 (s.dblk[0].toNat + 256 * s.dblk[1].toNat : Nat) true ∧
    OnlyBit s.misc t.misc 0 (s.dblk[0] == 0xFF && s.dblk[1] == 0xFF)

/-- R132: BM.VBAT. -/
def Obligations.BmVbatUnpacksBatteryVoltage : Prop :=
  ∀ s : State, ∃ t, exec .bmVbat s = .next t ∧
    Unpacked s t 1 (signed16 (s.dblk[2].toNat + 256 * s.dblk[3].toNat))
      (s.dblk[2] != 0xFF || s.dblk[3] &&& 0x7F != 0x7F)

/-- R133: BM.ALARM. -/
def Obligations.BmAlarmUnpacksTheAlarmMask : Prop :=
  ∀ s : State, ∃ t, exec .bmAlarm s = .next t ∧
    Unpacked s t 2 (s.dblk[4].toNat + 256 * s.dblk[5].toNat : Nat) true

/-- R134: BM.AUXSEL. -/
def Obligations.BmAuxselUnpacksTheSelector : Prop :=
  ∀ s : State, ∃ t, exec .bmAuxSel s = .next t ∧ t = { s with misc := t.misc } ∧
    t.misc.extractLsb' 4 2 = s.dblk[8].extractLsb' 0 2 ∧ t.misc &&& 0xCF = s.misc &&& 0xCF

/-- R135: BM.AUX in its four sub-forms; the decoder picks the one of the selector DBLK[8][1:0]. -/
def Obligations.BmAuxUnpacksBySelector : Prop :=
  ∀ s : State,
    (∃ t, exec .bmAux0 s = .next t ∧
      Unpacked s t 3 (signed16 (s.dblk[6].toNat + 256 * s.dblk[7].toNat))
        (s.dblk[6] != 0xFF || s.dblk[7] &&& 0x7F != 0x7F)) ∧
      (∃ t, exec .bmAux1 s = .next t ∧
        Unpacked s t 3 (s.dblk[6].toNat + 256 * s.dblk[7].toNat : Nat) (s.dblk[6] != 0xFF || s.dblk[7] != 0xFF)) ∧
      (∃ t, exec .bmAux2 s = .next t ∧
        Unpacked s t 3 (s.dblk[6].toNat + 256 * s.dblk[7].toNat : Nat) (s.dblk[6] != 0xFF || s.dblk[7] != 0xFF)) ∧
      (∃ t, exec .bmAux3 s = .next t ∧ Unpacked s t 3 99999 false) ∧
      auxForm (blockAux (blockWord s.dblk)) =
        if s.dblk[8] &&& 0x03 = 0 then .bmAux0 else if s.dblk[8] &&& 0x03 = 1 then .bmAux1
        else if s.dblk[8] &&& 0x03 = 2 then .bmAux2 else .bmAux3

/-- R136: BM.IBAT. -/
def Obligations.BmIbatUnpacksBatteryCurrent : Prop :=
  ∀ s : State, ∃ t, exec .bmIbat s = .next t ∧
    Unpacked s t 4 (signed22 (s.dblk[8].toNat / 4 + 64 * s.dblk[9].toNat + 16384 * s.dblk[10].toNat))
      (s.dblk[8] &&& 0xFC != 0xFC || s.dblk[9] != 0xFF || s.dblk[10] &&& 0x7F != 0x7F)

/-- R137: BM.CONS. -/
def Obligations.BmConsUnpacksConsumedCharge : Prop :=
  ∀ s : State, ∃ t, exec .bmCons s = .next t ∧
    Unpacked s t 5 (s.dblk[11].toNat + 256 * s.dblk[12].toNat + 65536 * (s.dblk[13].toNat % 16) : Nat)
      (s.dblk[11] != 0xFF || s.dblk[12] != 0xFF || s.dblk[13] &&& 0x0F != 0x0F)

/-- R138: BM.SOC. -/
def Obligations.BmSocUnpacksAndClamps : Prop :=
  ∀ s : State, ∃ t, exec .bmSoc s = .next t ∧
    (let raw := s.dblk[13].toNat / 16 + 16 * (s.dblk[14].toNat % 16) + 256 * (s.dblk[14].toNat / 16 % 4)
    Unpacked s { t with misc := s.misc } 6 (if 1000 < raw then 9999 else raw) (raw != 1023) ∧
      OnlyBit s.misc t.misc 1 (decide (1000 < raw)))

/-! ## Solar Controller fields -/

/-- R151, R152: SC.STATE and SC.ERR. -/
def Obligations.ScStateAndErrUnpackTheirBytes : Prop :=
  ∀ s : State, (∃ t, exec .scState s = .next t ∧ Unpacked s t 0 s.dblk[0].toNat true) ∧
    (∃ t, exec .scErr s = .next t ∧ Unpacked s t 1 s.dblk[1].toNat true)

/-- R153, R154: SC.VBAT and SC.IBAT. -/
def Obligations.ScVbatAndIbatUnpackSigned : Prop :=
  ∀ s : State,
    (∃ t, exec .scVbat s = .next t ∧
      Unpacked s t 2 (signed16 (s.dblk[2].toNat + 256 * s.dblk[3].toNat))
        (s.dblk[2] != 0xFF || s.dblk[3] &&& 0x7F != 0x7F)) ∧
      (∃ t, exec .scIbat s = .next t ∧
        Unpacked s t 3 (signed16 (s.dblk[4].toNat + 256 * s.dblk[5].toNat))
          (s.dblk[4] != 0xFF || s.dblk[5] &&& 0x7F != 0x7F))

/-- R155, R156, R157: SC.EDAY, SC.PV and SC.ILOAD. -/
def Obligations.ScEdayPvIloadUnpackUnsigned : Prop :=
  ∀ s : State,
    (∃ t, exec .scEday s = .next t ∧
      Unpacked s t 4 (s.dblk[6].toNat + 256 * s.dblk[7].toNat : Nat) (s.dblk[6] != 0xFF || s.dblk[7] != 0xFF)) ∧
      (∃ t, exec .scPv s = .next t ∧
        Unpacked s t 5 (s.dblk[8].toNat + 256 * s.dblk[9].toNat : Nat) (s.dblk[8] != 0xFF || s.dblk[9] != 0xFF)) ∧
      (∃ t, exec .scIload s = .next t ∧
        Unpacked s t 6 (s.dblk[10].toNat + 256 * (s.dblk[11].toNat % 2) : Nat)
          (s.dblk[10] != 0xFF || s.dblk[11] &&& 0x01 != 0x01))

/-! ## Code tables -/

/-- R166: ALMCODE over every alarm mask BM.ALARM can store: 0 for none, `n + 1` for the single bit `n ≤ 13`, 16 for a
single bit 14 or 15, 15 for two bits or more. -/
def Obligations.AlmcodeCodesEveryMask : Prop :=
  ∀ s : State, s.v[2].toNat < 65536 → ∃ t, exec .almCode s = .next t ∧ t = { s with almcode := t.almcode } ∧
    (s.v[2].toNat = 0 → t.almcode = 0) ∧
    (∀ n : Nat, n ≤ 13 → s.v[2].toNat = 2 ^ n → t.almcode.toNat = n + 1) ∧
    (s.v[2].toNat = 2 ^ 14 ∨ s.v[2].toNat = 2 ^ 15 → t.almcode = 16) ∧
    ((∃ i j : Nat, i < j ∧ s.v[2].getLsbD i = true ∧ s.v[2].getLsbD j = true) → t.almcode = 15)

/-- R168, R169: STCODE and ERCODE over every byte SC.STATE and SC.ERR can store; V0 and V1 stay. -/
def Obligations.StcodeAndErcodeRecogniseNamedValues : Prop :=
  ∀ s : State,
    (0 ≤ s.x 0 ∧ s.x 0 ≤ 255 → ∃ t, exec .stCode s = .next t ∧ t = { s with misc := t.misc } ∧
      OnlyBit s.misc t.misc 2 (decide (s.x 0 < 8))) ∧
      (0 ≤ s.x 1 ∧ s.x 1 ≤ 255 → ∃ t, exec .erCode s = .next t ∧ t = { s with misc := t.misc } ∧
        OnlyBit s.misc t.misc 3 (decide (s.x 1 < 9)))

/-! ## Range classifier -/

/-- R181, R182: RNG.V and RNG.I: a dud when not available or outside the signed bounds, both ends inside; the counts
stay. -/
def Obligations.RngVAndRngIMarkDudsOutsideTheBounds : Prop :=
  ∀ s : State,
    (∃ t b, exec .rngV s = .next t ∧ DudMarked s t 2 b ∧
      (b = false ↔ s.available 2 = true ∧ s.vmin.toInt ≤ s.x 2 ∧ s.x 2 ≤ s.vmax.toInt)) ∧
      (∃ t b, exec .rngI s = .next t ∧ DudMarked s t 3 b ∧
        (b = false ↔ s.available 3 = true ∧ s.imin.toInt ≤ s.x 3 ∧ s.x 3 ≤ s.imax.toInt))

/-- R183, R184: RNG.E and RNG.P: a dud when not available or above the unsigned ceiling. -/
def Obligations.RngEAndRngPMarkDudsAboveTheCeiling : Prop :=
  ∀ s : State,
    (∃ t b, exec .rngE s = .next t ∧ DudMarked s t 4 b ∧
      (b = false ↔ s.available 4 = true ∧ s.x 4 ≤ s.emax.toNat)) ∧
      (∃ t b, exec .rngP s = .next t ∧ DudMarked s t 5 b ∧
        (b = false ↔ s.available 5 = true ∧ s.x 5 ≤ s.pmax.toNat))

/-- R185: RNG.L: a dud when expected and not available; no range. -/
def Obligations.RngLMarksAMissingLoadCurrent : Prop :=
  ∀ s : State, ∃ t b, exec .rngL s = .next t ∧ DudMarked s t 6 b ∧
    (b = true ↔ s.cfg.getLsbD 2 = true ∧ s.available 6 = false)

/-- R186: DUDSUM, in the states the block reaches (at most the five duds of DUDMASK[6:2]): it counts them, marks the
reading when they exceed what is tolerated, and goes to stage FIN. -/
def Obligations.DudsumCountsAndSuppresses : Prop :=
  ∀ s : State, s.dudmask &&& 0x83 = 0 →
    ∃ t, exec .dudSum s = .next t ∧ t = { s with duds := t.duds, status := t.status, stage := 8 } ∧
      (let n := ((List.range 8).filter fun i => s.dudmask.getLsbD i).length
      t.duds.toNat = n ∧
        OnlyBit s.status t.status 4 (decide ((if s.cfg.getLsbD 1 then s.ftol.toNat % 8 else 0) < n)))

/-! ## Invariants -/

/-- The invariant holds at reset (10_state.md R34). -/
def Obligations.ResetSatisfiesTheInvariant : Prop := Invariant State.reset

/-- 20_memory.md R48, 10_state.md R18 and R20 to R24: reserved bits hold 0, whatever turn is taken. -/
def Obligations.EveryStepKeepsReservedBitsZero : Prop :=
  ∀ s t : State, ReservedZero s → step s = .next t → ReservedZero t

/-- 10_state.md R14, 40_sequencer_and_frame.md R94 and 60_exceptions.md R201: STAGE stays a code of the table, it is not
IDLE exactly while the sequencer has a step, and under this invariant the machine never stops: every step has a next
state, which keeps it. -/
def Obligations.TheMachineNeverStops : Prop :=
  ∀ s : State, SequencerOk s → ∃ t, step s = .next t ∧ SequencerOk t

/-- The invariant of the whole machine is kept by every step from every state that has it: reserved bits, the
handshake, what a rejection leaves (60_exceptions.md R200, R205), the range of every count by field and layout (10_state.md
R13), and what the flags can hold (10_state.md R15 to R19). -/
def Obligations.EveryStepKeepsTheInvariant : Prop :=
  ∀ s t : State, Invariant s → step s = .next t → Invariant t

/-! ## The sequencer -/

/-- 40_sequencer_and_frame.md R94: the order of the stages: a straight line with one forward branch, from CHK to FIN on
a rejection. That the step is the sequencer's when no turn is scheduled is the model's choice
(notes/assumptions/1.md). -/
def Obligations.StagesFollowTheTable : Prop :=
  ∀ s : State, s.busy = true → s.stage.toNat ≤ 8 → s.stage ≠ 0 → s.schedule = [] →
    ∃ t, step s = .next t ∧
      t.stage = if s.stage = 1 then (if FrameAccepted s then 2 else 8) else if s.stage = 8 then 0 else s.stage + 1

/-- 40_sequencer_and_frame.md R95: from any state the invariant allows in which the sequencer has a step, DONE is 1 after
at most 8 steps of the sequencer; that it goes on by itself when no turn is scheduled is the model's choice
(notes/assumptions/1.md, notes/assumptions/17.md). 30_encoding.md R80 (WAITDONE): polling STATUS with the sequencer taking
a turn or more between polls ends, after at most eight polls that found 0, with a poll that returned bit 0 = 1. -/
def Obligations.EveryFrameIsDoneWithinEightSteps : Prop :=
  ∀ s : State, SequencerOk s → s.busy = true →
    (s.schedule = [] → ∃ n t, 1 ≤ n ∧ n ≤ 8 ∧ runSteps n s = .next t ∧ t.done = true ∧ t.stage = 0) ∧
      ∀ gaps : List Nat, 8 ≤ gaps.length → (∀ g ∈ gaps, 1 ≤ g) →
        ∃ t, waitDone gaps s = .next t ∧ t.rdata.getLsbD 0 = true ∧ t.done = true ∧ t.stage = 0

/-! ## The frame transaction -/

/-- 40_sequencer_and_frame.md R92, R94, R105 and 60_exceptions.md R205: from any state with READY = 0, START of a frame
that fails the check ends after two sequencer steps with every per-frame register 0 but STATUS, which is 0x05 for a wrong
length and 0x09 for a wrong marker; the key and the configuration stay. That the sequencer goes on by itself once START
has emptied the schedule is the model's choice (notes/assumptions/1.md). -/
def Obligations.RejectedFrameLeavesNoReading : Prop :=
  ∀ s : State, s.ready = false → s.schedule = go → ¬FrameAccepted s →
    ∃ t, runSteps 3 s = .next t ∧ PerFrameZero t ∧ t.stage = 0 ∧ t.ready = true ∧ SameInputs s t ∧
      t.status = if lengthOf s < 11 ∨ 26 < lengthOf s then 0x05 else 0x09

/-- 40_sequencer_and_frame.md R95, R106 and the layouts of 30_encoding.md: from any state with READY = 0, whatever an
earlier frame left, START of an accepted frame ends after eight sequencer steps with DONE and ACCEPT set and exactly the
reading that the bytes of the decrypted block have, a function of the frame, its length, the key and the configuration
alone. That the sequencer goes on by itself once START has emptied the schedule is the model's choice
(notes/assumptions/1.md). -/
def Obligations.AcceptedFrameGivesItsReading : Prop :=
  ∀ s : State, s.ready = false → s.schedule = go → FrameAccepted s →
    ∃ t, runSteps 9 s = .next t ∧ t.ready = true ∧ t.done = true ∧ t.accept = true ∧ t.rej = 0 ∧ t.stage = 0 ∧
      SameInputs s t ∧ t.iv = ivOf s.frame ∧ t.cblk = cipherBlockOf s.frame (lengthOf s) ∧
      t.dblk = decryptedBlock s ∧ readingOf t = expectedReading s

/-- 40_sequencer_and_frame.md R98, R106 and 30_encoding.md R61: two frames of the same length that agree in the marker,
bytes 7 and 8 and the ciphertext below the length give the same reading, IV, blocks and STATUS, whatever the unread bytes
(3 to 6, 9, and the stale bytes past the end) and whatever either machine held from earlier frames. That the sequencer
goes on by itself once START has emptied the schedule, and that the machine idles after a rejected frame, is the model's
choice (notes/assumptions/1.md). -/
def Obligations.UnreadAndStaleBytesReachNoResult : Prop :=
  ∀ s s' : State, s.ready = false → s'.ready = false → s.schedule = go → s'.schedule = go →
    s'.cfg = s.cfg → s'.flen = s.flen → s'.ftol = s.ftol → s'.key = s.key →
    (∀ b : Bound, s'.bound b = s.bound b) →
    (∀ i : Fin 26, frameByteRead (lengthOf s) i.val = true → s'.frame[i] = s.frame[i]) →
    ∃ t t', runSteps 9 s = .next t ∧ runSteps 9 s' = .next t' ∧ readingOf t' = readingOf t ∧
      t'.status = t.status ∧ t'.iv = t.iv ∧ t'.cblk = t.cblk ∧ t'.dblk = t.dblk

/-- 20_memory.md R47, R50: how host accesses fall between the sequencer's steps changes no register of the block (the bytes
that reads return are another matter, R47): any sequence of turns without a reset, taken while the frame is in flight, leaves the registers its sequencer turns alone
leave, and so does the sequencer turn that ends the frame. Turns in a list are the model's form of R50
(notes/assumptions/1.md). -/
def Obligations.InterleavingChangesNoRegister : Prop :=
  ∀ (s u : State) (q : List Turn), SequencerOk s → s.busy = true → (∀ x ∈ q, x ≠ .reset) →
    runTurns (q.filter fun x => x == .sequencer) s = .next u → u.busy = true →
    ∃ t t' u', runTurns q s = .next t ∧ blockOf t = blockOf u ∧ runTurns (q ++ [.sequencer]) s = .next t' ∧
      sequencerTurn u = .next u' ∧ blockOf t' = blockOf u'
end

