-- ==== Sys2Proof/Laws/State.lean ====
section
/-! SUPPORT. What each update of the state does to each field and to each field accessor: true by rfl, so that no proof
unfolds a record update. -/

namespace Sys2Proof.Machine

/-! ## `State.setX` -/

@[simp] theorem State.setX_v (s : State) (i : Fin 8) (z : Int) : (s.setX i z).v = s.v.set i.val (BitVec.ofInt 32 z) := rfl
@[simp] theorem State.setX_stage (s : State) (i : Fin 8) (z : Int) : (s.setX i z).stage = s.stage := rfl
@[simp] theorem State.setX_avail (s : State) (i : Fin 8) (z : Int) : (s.setX i z).avail = s.avail := rfl
@[simp] theorem State.setX_dudmask (s : State) (i : Fin 8) (z : Int) : (s.setX i z).dudmask = s.dudmask := rfl
@[simp] theorem State.setX_duds (s : State) (i : Fin 8) (z : Int) : (s.setX i z).duds = s.duds := rfl
@[simp] theorem State.setX_misc (s : State) (i : Fin 8) (z : Int) : (s.setX i z).misc = s.misc := rfl
@[simp] theorem State.setX_almcode (s : State) (i : Fin 8) (z : Int) : (s.setX i z).almcode = s.almcode := rfl
@[simp] theorem State.setX_ctrl (s : State) (i : Fin 8) (z : Int) : (s.setX i z).ctrl = s.ctrl := rfl
@[simp] theorem State.setX_status (s : State) (i : Fin 8) (z : Int) : (s.setX i z).status = s.status := rfl
@[simp] theorem State.setX_cfg (s : State) (i : Fin 8) (z : Int) : (s.setX i z).cfg = s.cfg := rfl
@[simp] theorem State.setX_flen (s : State) (i : Fin 8) (z : Int) : (s.setX i z).flen = s.flen := rfl
@[simp] theorem State.setX_ftol (s : State) (i : Fin 8) (z : Int) : (s.setX i z).ftol = s.ftol := rfl
@[simp] theorem State.setX_vmin (s : State) (i : Fin 8) (z : Int) : (s.setX i z).vmin = s.vmin := rfl
@[simp] theorem State.setX_vmax (s : State) (i : Fin 8) (z : Int) : (s.setX i z).vmax = s.vmax := rfl
@[simp] theorem State.setX_imin (s : State) (i : Fin 8) (z : Int) : (s.setX i z).imin = s.imin := rfl
@[simp] theorem State.setX_imax (s : State) (i : Fin 8) (z : Int) : (s.setX i z).imax = s.imax := rfl
@[simp] theorem State.setX_emax (s : State) (i : Fin 8) (z : Int) : (s.setX i z).emax = s.emax := rfl
@[simp] theorem State.setX_pmax (s : State) (i : Fin 8) (z : Int) : (s.setX i z).pmax = s.pmax := rfl
@[simp] theorem State.setX_key (s : State) (i : Fin 8) (z : Int) : (s.setX i z).key = s.key := rfl
@[simp] theorem State.setX_frame (s : State) (i : Fin 8) (z : Int) : (s.setX i z).frame = s.frame := rfl
@[simp] theorem State.setX_iv (s : State) (i : Fin 8) (z : Int) : (s.setX i z).iv = s.iv := rfl
@[simp] theorem State.setX_cblk (s : State) (i : Fin 8) (z : Int) : (s.setX i z).cblk = s.cblk := rfl
@[simp] theorem State.setX_dblk (s : State) (i : Fin 8) (z : Int) : (s.setX i z).dblk = s.dblk := rfl
@[simp] theorem State.setX_scr (s : State) (i : Fin 8) (z : Int) : (s.setX i z).scr = s.scr := rfl
@[simp] theorem State.setX_schedule (s : State) (i : Fin 8) (z : Int) : (s.setX i z).schedule = s.schedule := rfl
@[simp] theorem State.setX_rdata (s : State) (i : Fin 8) (z : Int) : (s.setX i z).rdata = s.rdata := rfl
@[simp] theorem State.setX_draws (s : State) (i : Fin 8) (z : Int) : (s.setX i z).draws = s.draws := rfl
@[simp] theorem State.setX_ready (s : State) (i : Fin 8) (z : Int) : (s.setX i z).ready = s.ready := rfl
@[simp] theorem State.setX_done (s : State) (i : Fin 8) (z : Int) : (s.setX i z).done = s.done := rfl
@[simp] theorem State.setX_accept (s : State) (i : Fin 8) (z : Int) : (s.setX i z).accept = s.accept := rfl
@[simp] theorem State.setX_rej (s : State) (i : Fin 8) (z : Int) : (s.setX i z).rej = s.rej := rfl
@[simp] theorem State.setX_suppress (s : State) (i : Fin 8) (z : Int) : (s.setX i z).suppress = s.suppress := rfl
@[simp] theorem State.setX_layout (s : State) (i : Fin 8) (z : Int) : (s.setX i z).layout = s.layout := rfl
@[simp] theorem State.setX_filterEn (s : State) (i : Fin 8) (z : Int) : (s.setX i z).filterEn = s.filterEn := rfl
@[simp] theorem State.setX_loadSup (s : State) (i : Fin 8) (z : Int) : (s.setX i z).loadSup = s.loadSup := rfl
@[simp] theorem State.setX_frameLen (s : State) (i : Fin 8) (z : Int) : (s.setX i z).frameLen = s.frameLen := rfl
@[simp] theorem State.setX_tolerance (s : State) (i : Fin 8) (z : Int) : (s.setX i z).tolerance = s.tolerance := rfl
@[simp] theorem State.setX_busy (s : State) (i : Fin 8) (z : Int) : (s.setX i z).busy = s.busy := rfl
@[simp] theorem State.setX_available (s : State) (i : Fin 8) (z : Int) (j : Fin 8) : (s.setX i z).available j = s.available j := rfl
@[simp] theorem State.setX_boundValue (s : State) (i : Fin 8) (z : Int) (k : Bound) : (s.setX i z).boundValue k = s.boundValue k := by cases k <;> rfl

/-! ## `State.setAvail` -/

@[simp] theorem State.setAvail_v (s : State) (i : Fin 8) (b : Bool) : (s.setAvail i b).v = s.v := rfl
@[simp] theorem State.setAvail_stage (s : State) (i : Fin 8) (b : Bool) : (s.setAvail i b).stage = s.stage := rfl
@[simp] theorem State.setAvail_avail (s : State) (i : Fin 8) (b : Bool) : (s.setAvail i b).avail = putBit s.avail i.val b := rfl
@[simp] theorem State.setAvail_dudmask (s : State) (i : Fin 8) (b : Bool) : (s.setAvail i b).dudmask = s.dudmask := rfl
@[simp] theorem State.setAvail_duds (s : State) (i : Fin 8) (b : Bool) : (s.setAvail i b).duds = s.duds := rfl
@[simp] theorem State.setAvail_misc (s : State) (i : Fin 8) (b : Bool) : (s.setAvail i b).misc = s.misc := rfl
@[simp] theorem State.setAvail_almcode (s : State) (i : Fin 8) (b : Bool) : (s.setAvail i b).almcode = s.almcode := rfl
@[simp] theorem State.setAvail_ctrl (s : State) (i : Fin 8) (b : Bool) : (s.setAvail i b).ctrl = s.ctrl := rfl
@[simp] theorem State.setAvail_status (s : State) (i : Fin 8) (b : Bool) : (s.setAvail i b).status = s.status := rfl
@[simp] theorem State.setAvail_cfg (s : State) (i : Fin 8) (b : Bool) : (s.setAvail i b).cfg = s.cfg := rfl
@[simp] theorem State.setAvail_flen (s : State) (i : Fin 8) (b : Bool) : (s.setAvail i b).flen = s.flen := rfl
@[simp] theorem State.setAvail_ftol (s : State) (i : Fin 8) (b : Bool) : (s.setAvail i b).ftol = s.ftol := rfl
@[simp] theorem State.setAvail_vmin (s : State) (i : Fin 8) (b : Bool) : (s.setAvail i b).vmin = s.vmin := rfl
@[simp] theorem State.setAvail_vmax (s : State) (i : Fin 8) (b : Bool) : (s.setAvail i b).vmax = s.vmax := rfl
@[simp] theorem State.setAvail_imin (s : State) (i : Fin 8) (b : Bool) : (s.setAvail i b).imin = s.imin := rfl
@[simp] theorem State.setAvail_imax (s : State) (i : Fin 8) (b : Bool) : (s.setAvail i b).imax = s.imax := rfl
@[simp] theorem State.setAvail_emax (s : State) (i : Fin 8) (b : Bool) : (s.setAvail i b).emax = s.emax := rfl
@[simp] theorem State.setAvail_pmax (s : State) (i : Fin 8) (b : Bool) : (s.setAvail i b).pmax = s.pmax := rfl
@[simp] theorem State.setAvail_key (s : State) (i : Fin 8) (b : Bool) : (s.setAvail i b).key = s.key := rfl
@[simp] theorem State.setAvail_frame (s : State) (i : Fin 8) (b : Bool) : (s.setAvail i b).frame = s.frame := rfl
@[simp] theorem State.setAvail_iv (s : State) (i : Fin 8) (b : Bool) : (s.setAvail i b).iv = s.iv := rfl
@[simp] theorem State.setAvail_cblk (s : State) (i : Fin 8) (b : Bool) : (s.setAvail i b).cblk = s.cblk := rfl
@[simp] theorem State.setAvail_dblk (s : State) (i : Fin 8) (b : Bool) : (s.setAvail i b).dblk = s.dblk := rfl
@[simp] theorem State.setAvail_scr (s : State) (i : Fin 8) (b : Bool) : (s.setAvail i b).scr = s.scr := rfl
@[simp] theorem State.setAvail_schedule (s : State) (i : Fin 8) (b : Bool) : (s.setAvail i b).schedule = s.schedule := rfl
@[simp] theorem State.setAvail_rdata (s : State) (i : Fin 8) (b : Bool) : (s.setAvail i b).rdata = s.rdata := rfl
@[simp] theorem State.setAvail_draws (s : State) (i : Fin 8) (b : Bool) : (s.setAvail i b).draws = s.draws := rfl
@[simp] theorem State.setAvail_ready (s : State) (i : Fin 8) (b : Bool) : (s.setAvail i b).ready = s.ready := rfl
@[simp] theorem State.setAvail_done (s : State) (i : Fin 8) (b : Bool) : (s.setAvail i b).done = s.done := rfl
@[simp] theorem State.setAvail_accept (s : State) (i : Fin 8) (b : Bool) : (s.setAvail i b).accept = s.accept := rfl
@[simp] theorem State.setAvail_rej (s : State) (i : Fin 8) (b : Bool) : (s.setAvail i b).rej = s.rej := rfl
@[simp] theorem State.setAvail_suppress (s : State) (i : Fin 8) (b : Bool) : (s.setAvail i b).suppress = s.suppress := rfl
@[simp] theorem State.setAvail_layout (s : State) (i : Fin 8) (b : Bool) : (s.setAvail i b).layout = s.layout := rfl
@[simp] theorem State.setAvail_filterEn (s : State) (i : Fin 8) (b : Bool) : (s.setAvail i b).filterEn = s.filterEn := rfl
@[simp] theorem State.setAvail_loadSup (s : State) (i : Fin 8) (b : Bool) : (s.setAvail i b).loadSup = s.loadSup := rfl
@[simp] theorem State.setAvail_frameLen (s : State) (i : Fin 8) (b : Bool) : (s.setAvail i b).frameLen = s.frameLen := rfl
@[simp] theorem State.setAvail_tolerance (s : State) (i : Fin 8) (b : Bool) : (s.setAvail i b).tolerance = s.tolerance := rfl
@[simp] theorem State.setAvail_busy (s : State) (i : Fin 8) (b : Bool) : (s.setAvail i b).busy = s.busy := rfl
@[simp] theorem State.setAvail_x (s : State) (i : Fin 8) (b : Bool) (j : Fin 8) : (s.setAvail i b).x j = s.x j := rfl
@[simp] theorem State.setAvail_boundValue (s : State) (i : Fin 8) (b : Bool) (k : Bound) : (s.setAvail i b).boundValue k = s.boundValue k := by cases k <;> rfl

/-! ## `State.setDud` -/

@[simp] theorem State.setDud_v (s : State) (i : Fin 8) (b : Bool) : (s.setDud i b).v = s.v := rfl
@[simp] theorem State.setDud_stage (s : State) (i : Fin 8) (b : Bool) : (s.setDud i b).stage = s.stage := rfl
@[simp] theorem State.setDud_avail (s : State) (i : Fin 8) (b : Bool) : (s.setDud i b).avail = s.avail := rfl
@[simp] theorem State.setDud_dudmask (s : State) (i : Fin 8) (b : Bool) : (s.setDud i b).dudmask = putBit s.dudmask i.val b := rfl
@[simp] theorem State.setDud_duds (s : State) (i : Fin 8) (b : Bool) : (s.setDud i b).duds = s.duds := rfl
@[simp] theorem State.setDud_misc (s : State) (i : Fin 8) (b : Bool) : (s.setDud i b).misc = s.misc := rfl
@[simp] theorem State.setDud_almcode (s : State) (i : Fin 8) (b : Bool) : (s.setDud i b).almcode = s.almcode := rfl
@[simp] theorem State.setDud_ctrl (s : State) (i : Fin 8) (b : Bool) : (s.setDud i b).ctrl = s.ctrl := rfl
@[simp] theorem State.setDud_status (s : State) (i : Fin 8) (b : Bool) : (s.setDud i b).status = s.status := rfl
@[simp] theorem State.setDud_cfg (s : State) (i : Fin 8) (b : Bool) : (s.setDud i b).cfg = s.cfg := rfl
@[simp] theorem State.setDud_flen (s : State) (i : Fin 8) (b : Bool) : (s.setDud i b).flen = s.flen := rfl
@[simp] theorem State.setDud_ftol (s : State) (i : Fin 8) (b : Bool) : (s.setDud i b).ftol = s.ftol := rfl
@[simp] theorem State.setDud_vmin (s : State) (i : Fin 8) (b : Bool) : (s.setDud i b).vmin = s.vmin := rfl
@[simp] theorem State.setDud_vmax (s : State) (i : Fin 8) (b : Bool) : (s.setDud i b).vmax = s.vmax := rfl
@[simp] theorem State.setDud_imin (s : State) (i : Fin 8) (b : Bool) : (s.setDud i b).imin = s.imin := rfl
@[simp] theorem State.setDud_imax (s : State) (i : Fin 8) (b : Bool) : (s.setDud i b).imax = s.imax := rfl
@[simp] theorem State.setDud_emax (s : State) (i : Fin 8) (b : Bool) : (s.setDud i b).emax = s.emax := rfl
@[simp] theorem State.setDud_pmax (s : State) (i : Fin 8) (b : Bool) : (s.setDud i b).pmax = s.pmax := rfl
@[simp] theorem State.setDud_key (s : State) (i : Fin 8) (b : Bool) : (s.setDud i b).key = s.key := rfl
@[simp] theorem State.setDud_frame (s : State) (i : Fin 8) (b : Bool) : (s.setDud i b).frame = s.frame := rfl
@[simp] theorem State.setDud_iv (s : State) (i : Fin 8) (b : Bool) : (s.setDud i b).iv = s.iv := rfl
@[simp] theorem State.setDud_cblk (s : State) (i : Fin 8) (b : Bool) : (s.setDud i b).cblk = s.cblk := rfl
@[simp] theorem State.setDud_dblk (s : State) (i : Fin 8) (b : Bool) : (s.setDud i b).dblk = s.dblk := rfl
@[simp] theorem State.setDud_scr (s : State) (i : Fin 8) (b : Bool) : (s.setDud i b).scr = s.scr := rfl
@[simp] theorem State.setDud_schedule (s : State) (i : Fin 8) (b : Bool) : (s.setDud i b).schedule = s.schedule := rfl
@[simp] theorem State.setDud_rdata (s : State) (i : Fin 8) (b : Bool) : (s.setDud i b).rdata = s.rdata := rfl
@[simp] theorem State.setDud_draws (s : State) (i : Fin 8) (b : Bool) : (s.setDud i b).draws = s.draws := rfl
@[simp] theorem State.setDud_ready (s : State) (i : Fin 8) (b : Bool) : (s.setDud i b).ready = s.ready := rfl
@[simp] theorem State.setDud_done (s : State) (i : Fin 8) (b : Bool) : (s.setDud i b).done = s.done := rfl
@[simp] theorem State.setDud_accept (s : State) (i : Fin 8) (b : Bool) : (s.setDud i b).accept = s.accept := rfl
@[simp] theorem State.setDud_rej (s : State) (i : Fin 8) (b : Bool) : (s.setDud i b).rej = s.rej := rfl
@[simp] theorem State.setDud_suppress (s : State) (i : Fin 8) (b : Bool) : (s.setDud i b).suppress = s.suppress := rfl
@[simp] theorem State.setDud_layout (s : State) (i : Fin 8) (b : Bool) : (s.setDud i b).layout = s.layout := rfl
@[simp] theorem State.setDud_filterEn (s : State) (i : Fin 8) (b : Bool) : (s.setDud i b).filterEn = s.filterEn := rfl
@[simp] theorem State.setDud_loadSup (s : State) (i : Fin 8) (b : Bool) : (s.setDud i b).loadSup = s.loadSup := rfl
@[simp] theorem State.setDud_frameLen (s : State) (i : Fin 8) (b : Bool) : (s.setDud i b).frameLen = s.frameLen := rfl
@[simp] theorem State.setDud_tolerance (s : State) (i : Fin 8) (b : Bool) : (s.setDud i b).tolerance = s.tolerance := rfl
@[simp] theorem State.setDud_busy (s : State) (i : Fin 8) (b : Bool) : (s.setDud i b).busy = s.busy := rfl
@[simp] theorem State.setDud_x (s : State) (i : Fin 8) (b : Bool) (j : Fin 8) : (s.setDud i b).x j = s.x j := rfl
@[simp] theorem State.setDud_available (s : State) (i : Fin 8) (b : Bool) (j : Fin 8) : (s.setDud i b).available j = s.available j := rfl
@[simp] theorem State.setDud_boundValue (s : State) (i : Fin 8) (b : Bool) (k : Bound) : (s.setDud i b).boundValue k = s.boundValue k := by cases k <;> rfl

/-! ## `State.setTtgInf` -/

@[simp] theorem State.setTtgInf_v (s : State) (b : Bool) : (s.setTtgInf b).v = s.v := rfl
@[simp] theorem State.setTtgInf_stage (s : State) (b : Bool) : (s.setTtgInf b).stage = s.stage := rfl
@[simp] theorem State.setTtgInf_avail (s : State) (b : Bool) : (s.setTtgInf b).avail = s.avail := rfl
@[simp] theorem State.setTtgInf_dudmask (s : State) (b : Bool) : (s.setTtgInf b).dudmask = s.dudmask := rfl
@[simp] theorem State.setTtgInf_duds (s : State) (b : Bool) : (s.setTtgInf b).duds = s.duds := rfl
@[simp] theorem State.setTtgInf_misc (s : State) (b : Bool) : (s.setTtgInf b).misc = putBit s.misc 0 b := rfl
@[simp] theorem State.setTtgInf_almcode (s : State) (b : Bool) : (s.setTtgInf b).almcode = s.almcode := rfl
@[simp] theorem State.setTtgInf_ctrl (s : State) (b : Bool) : (s.setTtgInf b).ctrl = s.ctrl := rfl
@[simp] theorem State.setTtgInf_status (s : State) (b : Bool) : (s.setTtgInf b).status = s.status := rfl
@[simp] theorem State.setTtgInf_cfg (s : State) (b : Bool) : (s.setTtgInf b).cfg = s.cfg := rfl
@[simp] theorem State.setTtgInf_flen (s : State) (b : Bool) : (s.setTtgInf b).flen = s.flen := rfl
@[simp] theorem State.setTtgInf_ftol (s : State) (b : Bool) : (s.setTtgInf b).ftol = s.ftol := rfl
@[simp] theorem State.setTtgInf_vmin (s : State) (b : Bool) : (s.setTtgInf b).vmin = s.vmin := rfl
@[simp] theorem State.setTtgInf_vmax (s : State) (b : Bool) : (s.setTtgInf b).vmax = s.vmax := rfl
@[simp] theorem State.setTtgInf_imin (s : State) (b : Bool) : (s.setTtgInf b).imin = s.imin := rfl
@[simp] theorem State.setTtgInf_imax (s : State) (b : Bool) : (s.setTtgInf b).imax = s.imax := rfl
@[simp] theorem State.setTtgInf_emax (s : State) (b : Bool) : (s.setTtgInf b).emax = s.emax := rfl
@[simp] theorem State.setTtgInf_pmax (s : State) (b : Bool) : (s.setTtgInf b).pmax = s.pmax := rfl
@[simp] theorem State.setTtgInf_key (s : State) (b : Bool) : (s.setTtgInf b).key = s.key := rfl
@[simp] theorem State.setTtgInf_frame (s : State) (b : Bool) : (s.setTtgInf b).frame = s.frame := rfl
@[simp] theorem State.setTtgInf_iv (s : State) (b : Bool) : (s.setTtgInf b).iv = s.iv := rfl
@[simp] theorem State.setTtgInf_cblk (s : State) (b : Bool) : (s.setTtgInf b).cblk = s.cblk := rfl
@[simp] theorem State.setTtgInf_dblk (s : State) (b : Bool) : (s.setTtgInf b).dblk = s.dblk := rfl
@[simp] theorem State.setTtgInf_scr (s : State) (b : Bool) : (s.setTtgInf b).scr = s.scr := rfl
@[simp] theorem State.setTtgInf_schedule (s : State) (b : Bool) : (s.setTtgInf b).schedule = s.schedule := rfl
@[simp] theorem State.setTtgInf_rdata (s : State) (b : Bool) : (s.setTtgInf b).rdata = s.rdata := rfl
@[simp] theorem State.setTtgInf_draws (s : State) (b : Bool) : (s.setTtgInf b).draws = s.draws := rfl
@[simp] theorem State.setTtgInf_ready (s : State) (b : Bool) : (s.setTtgInf b).ready = s.ready := rfl
@[simp] theorem State.setTtgInf_done (s : State) (b : Bool) : (s.setTtgInf b).done = s.done := rfl
@[simp] theorem State.setTtgInf_accept (s : State) (b : Bool) : (s.setTtgInf b).accept = s.accept := rfl
@[simp] theorem State.setTtgInf_rej (s : State) (b : Bool) : (s.setTtgInf b).rej = s.rej := rfl
@[simp] theorem State.setTtgInf_suppress (s : State) (b : Bool) : (s.setTtgInf b).suppress = s.suppress := rfl
@[simp] theorem State.setTtgInf_layout (s : State) (b : Bool) : (s.setTtgInf b).layout = s.layout := rfl
@[simp] theorem State.setTtgInf_filterEn (s : State) (b : Bool) : (s.setTtgInf b).filterEn = s.filterEn := rfl
@[simp] theorem State.setTtgInf_loadSup (s : State) (b : Bool) : (s.setTtgInf b).loadSup = s.loadSup := rfl
@[simp] theorem State.setTtgInf_frameLen (s : State) (b : Bool) : (s.setTtgInf b).frameLen = s.frameLen := rfl
@[simp] theorem State.setTtgInf_tolerance (s : State) (b : Bool) : (s.setTtgInf b).tolerance = s.tolerance := rfl
@[simp] theorem State.setTtgInf_busy (s : State) (b : Bool) : (s.setTtgInf b).busy = s.busy := rfl
@[simp] theorem State.setTtgInf_x (s : State) (b : Bool) (j : Fin 8) : (s.setTtgInf b).x j = s.x j := rfl
@[simp] theorem State.setTtgInf_available (s : State) (b : Bool) (j : Fin 8) : (s.setTtgInf b).available j = s.available j := rfl
@[simp] theorem State.setTtgInf_boundValue (s : State) (b : Bool) (k : Bound) : (s.setTtgInf b).boundValue k = s.boundValue k := by cases k <;> rfl

/-! ## `State.setSocClamp` -/

@[simp] theorem State.setSocClamp_v (s : State) (b : Bool) : (s.setSocClamp b).v = s.v := rfl
@[simp] theorem State.setSocClamp_stage (s : State) (b : Bool) : (s.setSocClamp b).stage = s.stage := rfl
@[simp] theorem State.setSocClamp_avail (s : State) (b : Bool) : (s.setSocClamp b).avail = s.avail := rfl
@[simp] theorem State.setSocClamp_dudmask (s : State) (b : Bool) : (s.setSocClamp b).dudmask = s.dudmask := rfl
@[simp] theorem State.setSocClamp_duds (s : State) (b : Bool) : (s.setSocClamp b).duds = s.duds := rfl
@[simp] theorem State.setSocClamp_misc (s : State) (b : Bool) : (s.setSocClamp b).misc = putBit s.misc 1 b := rfl
@[simp] theorem State.setSocClamp_almcode (s : State) (b : Bool) : (s.setSocClamp b).almcode = s.almcode := rfl
@[simp] theorem State.setSocClamp_ctrl (s : State) (b : Bool) : (s.setSocClamp b).ctrl = s.ctrl := rfl
@[simp] theorem State.setSocClamp_status (s : State) (b : Bool) : (s.setSocClamp b).status = s.status := rfl
@[simp] theorem State.setSocClamp_cfg (s : State) (b : Bool) : (s.setSocClamp b).cfg = s.cfg := rfl
@[simp] theorem State.setSocClamp_flen (s : State) (b : Bool) : (s.setSocClamp b).flen = s.flen := rfl
@[simp] theorem State.setSocClamp_ftol (s : State) (b : Bool) : (s.setSocClamp b).ftol = s.ftol := rfl
@[simp] theorem State.setSocClamp_vmin (s : State) (b : Bool) : (s.setSocClamp b).vmin = s.vmin := rfl
@[simp] theorem State.setSocClamp_vmax (s : State) (b : Bool) : (s.setSocClamp b).vmax = s.vmax := rfl
@[simp] theorem State.setSocClamp_imin (s : State) (b : Bool) : (s.setSocClamp b).imin = s.imin := rfl
@[simp] theorem State.setSocClamp_imax (s : State) (b : Bool) : (s.setSocClamp b).imax = s.imax := rfl
@[simp] theorem State.setSocClamp_emax (s : State) (b : Bool) : (s.setSocClamp b).emax = s.emax := rfl
@[simp] theorem State.setSocClamp_pmax (s : State) (b : Bool) : (s.setSocClamp b).pmax = s.pmax := rfl
@[simp] theorem State.setSocClamp_key (s : State) (b : Bool) : (s.setSocClamp b).key = s.key := rfl
@[simp] theorem State.setSocClamp_frame (s : State) (b : Bool) : (s.setSocClamp b).frame = s.frame := rfl
@[simp] theorem State.setSocClamp_iv (s : State) (b : Bool) : (s.setSocClamp b).iv = s.iv := rfl
@[simp] theorem State.setSocClamp_cblk (s : State) (b : Bool) : (s.setSocClamp b).cblk = s.cblk := rfl
@[simp] theorem State.setSocClamp_dblk (s : State) (b : Bool) : (s.setSocClamp b).dblk = s.dblk := rfl
@[simp] theorem State.setSocClamp_scr (s : State) (b : Bool) : (s.setSocClamp b).scr = s.scr := rfl
@[simp] theorem State.setSocClamp_schedule (s : State) (b : Bool) : (s.setSocClamp b).schedule = s.schedule := rfl
@[simp] theorem State.setSocClamp_rdata (s : State) (b : Bool) : (s.setSocClamp b).rdata = s.rdata := rfl
@[simp] theorem State.setSocClamp_draws (s : State) (b : Bool) : (s.setSocClamp b).draws = s.draws := rfl
@[simp] theorem State.setSocClamp_ready (s : State) (b : Bool) : (s.setSocClamp b).ready = s.ready := rfl
@[simp] theorem State.setSocClamp_done (s : State) (b : Bool) : (s.setSocClamp b).done = s.done := rfl
@[simp] theorem State.setSocClamp_accept (s : State) (b : Bool) : (s.setSocClamp b).accept = s.accept := rfl
@[simp] theorem State.setSocClamp_rej (s : State) (b : Bool) : (s.setSocClamp b).rej = s.rej := rfl
@[simp] theorem State.setSocClamp_suppress (s : State) (b : Bool) : (s.setSocClamp b).suppress = s.suppress := rfl
@[simp] theorem State.setSocClamp_layout (s : State) (b : Bool) : (s.setSocClamp b).layout = s.layout := rfl
@[simp] theorem State.setSocClamp_filterEn (s : State) (b : Bool) : (s.setSocClamp b).filterEn = s.filterEn := rfl
@[simp] theorem State.setSocClamp_loadSup (s : State) (b : Bool) : (s.setSocClamp b).loadSup = s.loadSup := rfl
@[simp] theorem State.setSocClamp_frameLen (s : State) (b : Bool) : (s.setSocClamp b).frameLen = s.frameLen := rfl
@[simp] theorem State.setSocClamp_tolerance (s : State) (b : Bool) : (s.setSocClamp b).tolerance = s.tolerance := rfl
@[simp] theorem State.setSocClamp_busy (s : State) (b : Bool) : (s.setSocClamp b).busy = s.busy := rfl
@[simp] theorem State.setSocClamp_x (s : State) (b : Bool) (j : Fin 8) : (s.setSocClamp b).x j = s.x j := rfl
@[simp] theorem State.setSocClamp_available (s : State) (b : Bool) (j : Fin 8) : (s.setSocClamp b).available j = s.available j := rfl
@[simp] theorem State.setSocClamp_boundValue (s : State) (b : Bool) (k : Bound) : (s.setSocClamp b).boundValue k = s.boundValue k := by cases k <;> rfl

/-! ## `State.setStKnown` -/

@[simp] theorem State.setStKnown_v (s : State) (b : Bool) : (s.setStKnown b).v = s.v := rfl
@[simp] theorem State.setStKnown_stage (s : State) (b : Bool) : (s.setStKnown b).stage = s.stage := rfl
@[simp] theorem State.setStKnown_avail (s : State) (b : Bool) : (s.setStKnown b).avail = s.avail := rfl
@[simp] theorem State.setStKnown_dudmask (s : State) (b : Bool) : (s.setStKnown b).dudmask = s.dudmask := rfl
@[simp] theorem State.setStKnown_duds (s : State) (b : Bool) : (s.setStKnown b).duds = s.duds := rfl
@[simp] theorem State.setStKnown_misc (s : State) (b : Bool) : (s.setStKnown b).misc = putBit s.misc 2 b := rfl
@[simp] theorem State.setStKnown_almcode (s : State) (b : Bool) : (s.setStKnown b).almcode = s.almcode := rfl
@[simp] theorem State.setStKnown_ctrl (s : State) (b : Bool) : (s.setStKnown b).ctrl = s.ctrl := rfl
@[simp] theorem State.setStKnown_status (s : State) (b : Bool) : (s.setStKnown b).status = s.status := rfl
@[simp] theorem State.setStKnown_cfg (s : State) (b : Bool) : (s.setStKnown b).cfg = s.cfg := rfl
@[simp] theorem State.setStKnown_flen (s : State) (b : Bool) : (s.setStKnown b).flen = s.flen := rfl
@[simp] theorem State.setStKnown_ftol (s : State) (b : Bool) : (s.setStKnown b).ftol = s.ftol := rfl
@[simp] theorem State.setStKnown_vmin (s : State) (b : Bool) : (s.setStKnown b).vmin = s.vmin := rfl
@[simp] theorem State.setStKnown_vmax (s : State) (b : Bool) : (s.setStKnown b).vmax = s.vmax := rfl
@[simp] theorem State.setStKnown_imin (s : State) (b : Bool) : (s.setStKnown b).imin = s.imin := rfl
@[simp] theorem State.setStKnown_imax (s : State) (b : Bool) : (s.setStKnown b).imax = s.imax := rfl
@[simp] theorem State.setStKnown_emax (s : State) (b : Bool) : (s.setStKnown b).emax = s.emax := rfl
@[simp] theorem State.setStKnown_pmax (s : State) (b : Bool) : (s.setStKnown b).pmax = s.pmax := rfl
@[simp] theorem State.setStKnown_key (s : State) (b : Bool) : (s.setStKnown b).key = s.key := rfl
@[simp] theorem State.setStKnown_frame (s : State) (b : Bool) : (s.setStKnown b).frame = s.frame := rfl
@[simp] theorem State.setStKnown_iv (s : State) (b : Bool) : (s.setStKnown b).iv = s.iv := rfl
@[simp] theorem State.setStKnown_cblk (s : State) (b : Bool) : (s.setStKnown b).cblk = s.cblk := rfl
@[simp] theorem State.setStKnown_dblk (s : State) (b : Bool) : (s.setStKnown b).dblk = s.dblk := rfl
@[simp] theorem State.setStKnown_scr (s : State) (b : Bool) : (s.setStKnown b).scr = s.scr := rfl
@[simp] theorem State.setStKnown_schedule (s : State) (b : Bool) : (s.setStKnown b).schedule = s.schedule := rfl
@[simp] theorem State.setStKnown_rdata (s : State) (b : Bool) : (s.setStKnown b).rdata = s.rdata := rfl
@[simp] theorem State.setStKnown_draws (s : State) (b : Bool) : (s.setStKnown b).draws = s.draws := rfl
@[simp] theorem State.setStKnown_ready (s : State) (b : Bool) : (s.setStKnown b).ready = s.ready := rfl
@[simp] theorem State.setStKnown_done (s : State) (b : Bool) : (s.setStKnown b).done = s.done := rfl
@[simp] theorem State.setStKnown_accept (s : State) (b : Bool) : (s.setStKnown b).accept = s.accept := rfl
@[simp] theorem State.setStKnown_rej (s : State) (b : Bool) : (s.setStKnown b).rej = s.rej := rfl
@[simp] theorem State.setStKnown_suppress (s : State) (b : Bool) : (s.setStKnown b).suppress = s.suppress := rfl
@[simp] theorem State.setStKnown_layout (s : State) (b : Bool) : (s.setStKnown b).layout = s.layout := rfl
@[simp] theorem State.setStKnown_filterEn (s : State) (b : Bool) : (s.setStKnown b).filterEn = s.filterEn := rfl
@[simp] theorem State.setStKnown_loadSup (s : State) (b : Bool) : (s.setStKnown b).loadSup = s.loadSup := rfl
@[simp] theorem State.setStKnown_frameLen (s : State) (b : Bool) : (s.setStKnown b).frameLen = s.frameLen := rfl
@[simp] theorem State.setStKnown_tolerance (s : State) (b : Bool) : (s.setStKnown b).tolerance = s.tolerance := rfl
@[simp] theorem State.setStKnown_busy (s : State) (b : Bool) : (s.setStKnown b).busy = s.busy := rfl
@[simp] theorem State.setStKnown_x (s : State) (b : Bool) (j : Fin 8) : (s.setStKnown b).x j = s.x j := rfl
@[simp] theorem State.setStKnown_available (s : State) (b : Bool) (j : Fin 8) : (s.setStKnown b).available j = s.available j := rfl
@[simp] theorem State.setStKnown_boundValue (s : State) (b : Bool) (k : Bound) : (s.setStKnown b).boundValue k = s.boundValue k := by cases k <;> rfl

/-! ## `State.setErKnown` -/

@[simp] theorem State.setErKnown_v (s : State) (b : Bool) : (s.setErKnown b).v = s.v := rfl
@[simp] theorem State.setErKnown_stage (s : State) (b : Bool) : (s.setErKnown b).stage = s.stage := rfl
@[simp] theorem State.setErKnown_avail (s : State) (b : Bool) : (s.setErKnown b).avail = s.avail := rfl
@[simp] theorem State.setErKnown_dudmask (s : State) (b : Bool) : (s.setErKnown b).dudmask = s.dudmask := rfl
@[simp] theorem State.setErKnown_duds (s : State) (b : Bool) : (s.setErKnown b).duds = s.duds := rfl
@[simp] theorem State.setErKnown_misc (s : State) (b : Bool) : (s.setErKnown b).misc = putBit s.misc 3 b := rfl
@[simp] theorem State.setErKnown_almcode (s : State) (b : Bool) : (s.setErKnown b).almcode = s.almcode := rfl
@[simp] theorem State.setErKnown_ctrl (s : State) (b : Bool) : (s.setErKnown b).ctrl = s.ctrl := rfl
@[simp] theorem State.setErKnown_status (s : State) (b : Bool) : (s.setErKnown b).status = s.status := rfl
@[simp] theorem State.setErKnown_cfg (s : State) (b : Bool) : (s.setErKnown b).cfg = s.cfg := rfl
@[simp] theorem State.setErKnown_flen (s : State) (b : Bool) : (s.setErKnown b).flen = s.flen := rfl
@[simp] theorem State.setErKnown_ftol (s : State) (b : Bool) : (s.setErKnown b).ftol = s.ftol := rfl
@[simp] theorem State.setErKnown_vmin (s : State) (b : Bool) : (s.setErKnown b).vmin = s.vmin := rfl
@[simp] theorem State.setErKnown_vmax (s : State) (b : Bool) : (s.setErKnown b).vmax = s.vmax := rfl
@[simp] theorem State.setErKnown_imin (s : State) (b : Bool) : (s.setErKnown b).imin = s.imin := rfl
@[simp] theorem State.setErKnown_imax (s : State) (b : Bool) : (s.setErKnown b).imax = s.imax := rfl
@[simp] theorem State.setErKnown_emax (s : State) (b : Bool) : (s.setErKnown b).emax = s.emax := rfl
@[simp] theorem State.setErKnown_pmax (s : State) (b : Bool) : (s.setErKnown b).pmax = s.pmax := rfl
@[simp] theorem State.setErKnown_key (s : State) (b : Bool) : (s.setErKnown b).key = s.key := rfl
@[simp] theorem State.setErKnown_frame (s : State) (b : Bool) : (s.setErKnown b).frame = s.frame := rfl
@[simp] theorem State.setErKnown_iv (s : State) (b : Bool) : (s.setErKnown b).iv = s.iv := rfl
@[simp] theorem State.setErKnown_cblk (s : State) (b : Bool) : (s.setErKnown b).cblk = s.cblk := rfl
@[simp] theorem State.setErKnown_dblk (s : State) (b : Bool) : (s.setErKnown b).dblk = s.dblk := rfl
@[simp] theorem State.setErKnown_scr (s : State) (b : Bool) : (s.setErKnown b).scr = s.scr := rfl
@[simp] theorem State.setErKnown_schedule (s : State) (b : Bool) : (s.setErKnown b).schedule = s.schedule := rfl
@[simp] theorem State.setErKnown_rdata (s : State) (b : Bool) : (s.setErKnown b).rdata = s.rdata := rfl
@[simp] theorem State.setErKnown_draws (s : State) (b : Bool) : (s.setErKnown b).draws = s.draws := rfl
@[simp] theorem State.setErKnown_ready (s : State) (b : Bool) : (s.setErKnown b).ready = s.ready := rfl
@[simp] theorem State.setErKnown_done (s : State) (b : Bool) : (s.setErKnown b).done = s.done := rfl
@[simp] theorem State.setErKnown_accept (s : State) (b : Bool) : (s.setErKnown b).accept = s.accept := rfl
@[simp] theorem State.setErKnown_rej (s : State) (b : Bool) : (s.setErKnown b).rej = s.rej := rfl
@[simp] theorem State.setErKnown_suppress (s : State) (b : Bool) : (s.setErKnown b).suppress = s.suppress := rfl
@[simp] theorem State.setErKnown_layout (s : State) (b : Bool) : (s.setErKnown b).layout = s.layout := rfl
@[simp] theorem State.setErKnown_filterEn (s : State) (b : Bool) : (s.setErKnown b).filterEn = s.filterEn := rfl
@[simp] theorem State.setErKnown_loadSup (s : State) (b : Bool) : (s.setErKnown b).loadSup = s.loadSup := rfl
@[simp] theorem State.setErKnown_frameLen (s : State) (b : Bool) : (s.setErKnown b).frameLen = s.frameLen := rfl
@[simp] theorem State.setErKnown_tolerance (s : State) (b : Bool) : (s.setErKnown b).tolerance = s.tolerance := rfl
@[simp] theorem State.setErKnown_busy (s : State) (b : Bool) : (s.setErKnown b).busy = s.busy := rfl
@[simp] theorem State.setErKnown_x (s : State) (b : Bool) (j : Fin 8) : (s.setErKnown b).x j = s.x j := rfl
@[simp] theorem State.setErKnown_available (s : State) (b : Bool) (j : Fin 8) : (s.setErKnown b).available j = s.available j := rfl
@[simp] theorem State.setErKnown_boundValue (s : State) (b : Bool) (k : Bound) : (s.setErKnown b).boundValue k = s.boundValue k := by cases k <;> rfl

/-! ## `State.setAuxMode` -/

@[simp] theorem State.setAuxMode_v (s : State) (n : BitVec 2) : (s.setAuxMode n).v = s.v := rfl
@[simp] theorem State.setAuxMode_stage (s : State) (n : BitVec 2) : (s.setAuxMode n).stage = s.stage := rfl
@[simp] theorem State.setAuxMode_avail (s : State) (n : BitVec 2) : (s.setAuxMode n).avail = s.avail := rfl
@[simp] theorem State.setAuxMode_dudmask (s : State) (n : BitVec 2) : (s.setAuxMode n).dudmask = s.dudmask := rfl
@[simp] theorem State.setAuxMode_duds (s : State) (n : BitVec 2) : (s.setAuxMode n).duds = s.duds := rfl
@[simp] theorem State.setAuxMode_misc (s : State) (n : BitVec 2) : (s.setAuxMode n).misc = putPair s.misc 4 n := rfl
@[simp] theorem State.setAuxMode_almcode (s : State) (n : BitVec 2) : (s.setAuxMode n).almcode = s.almcode := rfl
@[simp] theorem State.setAuxMode_ctrl (s : State) (n : BitVec 2) : (s.setAuxMode n).ctrl = s.ctrl := rfl
@[simp] theorem State.setAuxMode_status (s : State) (n : BitVec 2) : (s.setAuxMode n).status = s.status := rfl
@[simp] theorem State.setAuxMode_cfg (s : State) (n : BitVec 2) : (s.setAuxMode n).cfg = s.cfg := rfl
@[simp] theorem State.setAuxMode_flen (s : State) (n : BitVec 2) : (s.setAuxMode n).flen = s.flen := rfl
@[simp] theorem State.setAuxMode_ftol (s : State) (n : BitVec 2) : (s.setAuxMode n).ftol = s.ftol := rfl
@[simp] theorem State.setAuxMode_vmin (s : State) (n : BitVec 2) : (s.setAuxMode n).vmin = s.vmin := rfl
@[simp] theorem State.setAuxMode_vmax (s : State) (n : BitVec 2) : (s.setAuxMode n).vmax = s.vmax := rfl
@[simp] theorem State.setAuxMode_imin (s : State) (n : BitVec 2) : (s.setAuxMode n).imin = s.imin := rfl
@[simp] theorem State.setAuxMode_imax (s : State) (n : BitVec 2) : (s.setAuxMode n).imax = s.imax := rfl
@[simp] theorem State.setAuxMode_emax (s : State) (n : BitVec 2) : (s.setAuxMode n).emax = s.emax := rfl
@[simp] theorem State.setAuxMode_pmax (s : State) (n : BitVec 2) : (s.setAuxMode n).pmax = s.pmax := rfl
@[simp] theorem State.setAuxMode_key (s : State) (n : BitVec 2) : (s.setAuxMode n).key = s.key := rfl
@[simp] theorem State.setAuxMode_frame (s : State) (n : BitVec 2) : (s.setAuxMode n).frame = s.frame := rfl
@[simp] theorem State.setAuxMode_iv (s : State) (n : BitVec 2) : (s.setAuxMode n).iv = s.iv := rfl
@[simp] theorem State.setAuxMode_cblk (s : State) (n : BitVec 2) : (s.setAuxMode n).cblk = s.cblk := rfl
@[simp] theorem State.setAuxMode_dblk (s : State) (n : BitVec 2) : (s.setAuxMode n).dblk = s.dblk := rfl
@[simp] theorem State.setAuxMode_scr (s : State) (n : BitVec 2) : (s.setAuxMode n).scr = s.scr := rfl
@[simp] theorem State.setAuxMode_schedule (s : State) (n : BitVec 2) : (s.setAuxMode n).schedule = s.schedule := rfl
@[simp] theorem State.setAuxMode_rdata (s : State) (n : BitVec 2) : (s.setAuxMode n).rdata = s.rdata := rfl
@[simp] theorem State.setAuxMode_draws (s : State) (n : BitVec 2) : (s.setAuxMode n).draws = s.draws := rfl
@[simp] theorem State.setAuxMode_ready (s : State) (n : BitVec 2) : (s.setAuxMode n).ready = s.ready := rfl
@[simp] theorem State.setAuxMode_done (s : State) (n : BitVec 2) : (s.setAuxMode n).done = s.done := rfl
@[simp] theorem State.setAuxMode_accept (s : State) (n : BitVec 2) : (s.setAuxMode n).accept = s.accept := rfl
@[simp] theorem State.setAuxMode_rej (s : State) (n : BitVec 2) : (s.setAuxMode n).rej = s.rej := rfl
@[simp] theorem State.setAuxMode_suppress (s : State) (n : BitVec 2) : (s.setAuxMode n).suppress = s.suppress := rfl
@[simp] theorem State.setAuxMode_layout (s : State) (n : BitVec 2) : (s.setAuxMode n).layout = s.layout := rfl
@[simp] theorem State.setAuxMode_filterEn (s : State) (n : BitVec 2) : (s.setAuxMode n).filterEn = s.filterEn := rfl
@[simp] theorem State.setAuxMode_loadSup (s : State) (n : BitVec 2) : (s.setAuxMode n).loadSup = s.loadSup := rfl
@[simp] theorem State.setAuxMode_frameLen (s : State) (n : BitVec 2) : (s.setAuxMode n).frameLen = s.frameLen := rfl
@[simp] theorem State.setAuxMode_tolerance (s : State) (n : BitVec 2) : (s.setAuxMode n).tolerance = s.tolerance := rfl
@[simp] theorem State.setAuxMode_busy (s : State) (n : BitVec 2) : (s.setAuxMode n).busy = s.busy := rfl
@[simp] theorem State.setAuxMode_x (s : State) (n : BitVec 2) (j : Fin 8) : (s.setAuxMode n).x j = s.x j := rfl
@[simp] theorem State.setAuxMode_available (s : State) (n : BitVec 2) (j : Fin 8) : (s.setAuxMode n).available j = s.available j := rfl
@[simp] theorem State.setAuxMode_boundValue (s : State) (n : BitVec 2) (k : Bound) : (s.setAuxMode n).boundValue k = s.boundValue k := by cases k <;> rfl

/-! ## `State.setDone` -/

@[simp] theorem State.setDone_v (s : State) (b : Bool) : (s.setDone b).v = s.v := rfl
@[simp] theorem State.setDone_stage (s : State) (b : Bool) : (s.setDone b).stage = s.stage := rfl
@[simp] theorem State.setDone_avail (s : State) (b : Bool) : (s.setDone b).avail = s.avail := rfl
@[simp] theorem State.setDone_dudmask (s : State) (b : Bool) : (s.setDone b).dudmask = s.dudmask := rfl
@[simp] theorem State.setDone_duds (s : State) (b : Bool) : (s.setDone b).duds = s.duds := rfl
@[simp] theorem State.setDone_misc (s : State) (b : Bool) : (s.setDone b).misc = s.misc := rfl
@[simp] theorem State.setDone_almcode (s : State) (b : Bool) : (s.setDone b).almcode = s.almcode := rfl
@[simp] theorem State.setDone_ctrl (s : State) (b : Bool) : (s.setDone b).ctrl = s.ctrl := rfl
@[simp] theorem State.setDone_status (s : State) (b : Bool) : (s.setDone b).status = putBit s.status 0 b := rfl
@[simp] theorem State.setDone_cfg (s : State) (b : Bool) : (s.setDone b).cfg = s.cfg := rfl
@[simp] theorem State.setDone_flen (s : State) (b : Bool) : (s.setDone b).flen = s.flen := rfl
@[simp] theorem State.setDone_ftol (s : State) (b : Bool) : (s.setDone b).ftol = s.ftol := rfl
@[simp] theorem State.setDone_vmin (s : State) (b : Bool) : (s.setDone b).vmin = s.vmin := rfl
@[simp] theorem State.setDone_vmax (s : State) (b : Bool) : (s.setDone b).vmax = s.vmax := rfl
@[simp] theorem State.setDone_imin (s : State) (b : Bool) : (s.setDone b).imin = s.imin := rfl
@[simp] theorem State.setDone_imax (s : State) (b : Bool) : (s.setDone b).imax = s.imax := rfl
@[simp] theorem State.setDone_emax (s : State) (b : Bool) : (s.setDone b).emax = s.emax := rfl
@[simp] theorem State.setDone_pmax (s : State) (b : Bool) : (s.setDone b).pmax = s.pmax := rfl
@[simp] theorem State.setDone_key (s : State) (b : Bool) : (s.setDone b).key = s.key := rfl
@[simp] theorem State.setDone_frame (s : State) (b : Bool) : (s.setDone b).frame = s.frame := rfl
@[simp] theorem State.setDone_iv (s : State) (b : Bool) : (s.setDone b).iv = s.iv := rfl
@[simp] theorem State.setDone_cblk (s : State) (b : Bool) : (s.setDone b).cblk = s.cblk := rfl
@[simp] theorem State.setDone_dblk (s : State) (b : Bool) : (s.setDone b).dblk = s.dblk := rfl
@[simp] theorem State.setDone_scr (s : State) (b : Bool) : (s.setDone b).scr = s.scr := rfl
@[simp] theorem State.setDone_schedule (s : State) (b : Bool) : (s.setDone b).schedule = s.schedule := rfl
@[simp] theorem State.setDone_rdata (s : State) (b : Bool) : (s.setDone b).rdata = s.rdata := rfl
@[simp] theorem State.setDone_draws (s : State) (b : Bool) : (s.setDone b).draws = s.draws := rfl
@[simp] theorem State.setDone_ready (s : State) (b : Bool) : (s.setDone b).ready = s.ready := rfl
@[simp] theorem State.setDone_layout (s : State) (b : Bool) : (s.setDone b).layout = s.layout := rfl
@[simp] theorem State.setDone_filterEn (s : State) (b : Bool) : (s.setDone b).filterEn = s.filterEn := rfl
@[simp] theorem State.setDone_loadSup (s : State) (b : Bool) : (s.setDone b).loadSup = s.loadSup := rfl
@[simp] theorem State.setDone_frameLen (s : State) (b : Bool) : (s.setDone b).frameLen = s.frameLen := rfl
@[simp] theorem State.setDone_tolerance (s : State) (b : Bool) : (s.setDone b).tolerance = s.tolerance := rfl
@[simp] theorem State.setDone_x (s : State) (b : Bool) (j : Fin 8) : (s.setDone b).x j = s.x j := rfl
@[simp] theorem State.setDone_available (s : State) (b : Bool) (j : Fin 8) : (s.setDone b).available j = s.available j := rfl
@[simp] theorem State.setDone_boundValue (s : State) (b : Bool) (k : Bound) : (s.setDone b).boundValue k = s.boundValue k := by cases k <;> rfl

/-! ## `State.setAccept` -/

@[simp] theorem State.setAccept_v (s : State) (b : Bool) : (s.setAccept b).v = s.v := rfl
@[simp] theorem State.setAccept_stage (s : State) (b : Bool) : (s.setAccept b).stage = s.stage := rfl
@[simp] theorem State.setAccept_avail (s : State) (b : Bool) : (s.setAccept b).avail = s.avail := rfl
@[simp] theorem State.setAccept_dudmask (s : State) (b : Bool) : (s.setAccept b).dudmask = s.dudmask := rfl
@[simp] theorem State.setAccept_duds (s : State) (b : Bool) : (s.setAccept b).duds = s.duds := rfl
@[simp] theorem State.setAccept_misc (s : State) (b : Bool) : (s.setAccept b).misc = s.misc := rfl
@[simp] theorem State.setAccept_almcode (s : State) (b : Bool) : (s.setAccept b).almcode = s.almcode := rfl
@[simp] theorem State.setAccept_ctrl (s : State) (b : Bool) : (s.setAccept b).ctrl = s.ctrl := rfl
@[simp] theorem State.setAccept_status (s : State) (b : Bool) : (s.setAccept b).status = putBit s.status 1 b := rfl
@[simp] theorem State.setAccept_cfg (s : State) (b : Bool) : (s.setAccept b).cfg = s.cfg := rfl
@[simp] theorem State.setAccept_flen (s : State) (b : Bool) : (s.setAccept b).flen = s.flen := rfl
@[simp] theorem State.setAccept_ftol (s : State) (b : Bool) : (s.setAccept b).ftol = s.ftol := rfl
@[simp] theorem State.setAccept_vmin (s : State) (b : Bool) : (s.setAccept b).vmin = s.vmin := rfl
@[simp] theorem State.setAccept_vmax (s : State) (b : Bool) : (s.setAccept b).vmax = s.vmax := rfl
@[simp] theorem State.setAccept_imin (s : State) (b : Bool) : (s.setAccept b).imin = s.imin := rfl
@[simp] theorem State.setAccept_imax (s : State) (b : Bool) : (s.setAccept b).imax = s.imax := rfl
@[simp] theorem State.setAccept_emax (s : State) (b : Bool) : (s.setAccept b).emax = s.emax := rfl
@[simp] theorem State.setAccept_pmax (s : State) (b : Bool) : (s.setAccept b).pmax = s.pmax := rfl
@[simp] theorem State.setAccept_key (s : State) (b : Bool) : (s.setAccept b).key = s.key := rfl
@[simp] theorem State.setAccept_frame (s : State) (b : Bool) : (s.setAccept b).frame = s.frame := rfl
@[simp] theorem State.setAccept_iv (s : State) (b : Bool) : (s.setAccept b).iv = s.iv := rfl
@[simp] theorem State.setAccept_cblk (s : State) (b : Bool) : (s.setAccept b).cblk = s.cblk := rfl
@[simp] theorem State.setAccept_dblk (s : State) (b : Bool) : (s.setAccept b).dblk = s.dblk := rfl
@[simp] theorem State.setAccept_scr (s : State) (b : Bool) : (s.setAccept b).scr = s.scr := rfl
@[simp] theorem State.setAccept_schedule (s : State) (b : Bool) : (s.setAccept b).schedule = s.schedule := rfl
@[simp] theorem State.setAccept_rdata (s : State) (b : Bool) : (s.setAccept b).rdata = s.rdata := rfl
@[simp] theorem State.setAccept_draws (s : State) (b : Bool) : (s.setAccept b).draws = s.draws := rfl
@[simp] theorem State.setAccept_ready (s : State) (b : Bool) : (s.setAccept b).ready = s.ready := rfl
@[simp] theorem State.setAccept_layout (s : State) (b : Bool) : (s.setAccept b).layout = s.layout := rfl
@[simp] theorem State.setAccept_filterEn (s : State) (b : Bool) : (s.setAccept b).filterEn = s.filterEn := rfl
@[simp] theorem State.setAccept_loadSup (s : State) (b : Bool) : (s.setAccept b).loadSup = s.loadSup := rfl
@[simp] theorem State.setAccept_frameLen (s : State) (b : Bool) : (s.setAccept b).frameLen = s.frameLen := rfl
@[simp] theorem State.setAccept_tolerance (s : State) (b : Bool) : (s.setAccept b).tolerance = s.tolerance := rfl
@[simp] theorem State.setAccept_x (s : State) (b : Bool) (j : Fin 8) : (s.setAccept b).x j = s.x j := rfl
@[simp] theorem State.setAccept_available (s : State) (b : Bool) (j : Fin 8) : (s.setAccept b).available j = s.available j := rfl
@[simp] theorem State.setAccept_boundValue (s : State) (b : Bool) (k : Bound) : (s.setAccept b).boundValue k = s.boundValue k := by cases k <;> rfl

/-! ## `State.setRej` -/

@[simp] theorem State.setRej_v (s : State) (c : BitVec 2) : (s.setRej c).v = s.v := rfl
@[simp] theorem State.setRej_stage (s : State) (c : BitVec 2) : (s.setRej c).stage = s.stage := rfl
@[simp] theorem State.setRej_avail (s : State) (c : BitVec 2) : (s.setRej c).avail = s.avail := rfl
@[simp] theorem State.setRej_dudmask (s : State) (c : BitVec 2) : (s.setRej c).dudmask = s.dudmask := rfl
@[simp] theorem State.setRej_duds (s : State) (c : BitVec 2) : (s.setRej c).duds = s.duds := rfl
@[simp] theorem State.setRej_misc (s : State) (c : BitVec 2) : (s.setRej c).misc = s.misc := rfl
@[simp] theorem State.setRej_almcode (s : State) (c : BitVec 2) : (s.setRej c).almcode = s.almcode := rfl
@[simp] theorem State.setRej_ctrl (s : State) (c : BitVec 2) : (s.setRej c).ctrl = s.ctrl := rfl
@[simp] theorem State.setRej_status (s : State) (c : BitVec 2) : (s.setRej c).status = putPair s.status 2 c := rfl
@[simp] theorem State.setRej_cfg (s : State) (c : BitVec 2) : (s.setRej c).cfg = s.cfg := rfl
@[simp] theorem State.setRej_flen (s : State) (c : BitVec 2) : (s.setRej c).flen = s.flen := rfl
@[simp] theorem State.setRej_ftol (s : State) (c : BitVec 2) : (s.setRej c).ftol = s.ftol := rfl
@[simp] theorem State.setRej_vmin (s : State) (c : BitVec 2) : (s.setRej c).vmin = s.vmin := rfl
@[simp] theorem State.setRej_vmax (s : State) (c : BitVec 2) : (s.setRej c).vmax = s.vmax := rfl
@[simp] theorem State.setRej_imin (s : State) (c : BitVec 2) : (s.setRej c).imin = s.imin := rfl
@[simp] theorem State.setRej_imax (s : State) (c : BitVec 2) : (s.setRej c).imax = s.imax := rfl
@[simp] theorem State.setRej_emax (s : State) (c : BitVec 2) : (s.setRej c).emax = s.emax := rfl
@[simp] theorem State.setRej_pmax (s : State) (c : BitVec 2) : (s.setRej c).pmax = s.pmax := rfl
@[simp] theorem State.setRej_key (s : State) (c : BitVec 2) : (s.setRej c).key = s.key := rfl
@[simp] theorem State.setRej_frame (s : State) (c : BitVec 2) : (s.setRej c).frame = s.frame := rfl
@[simp] theorem State.setRej_iv (s : State) (c : BitVec 2) : (s.setRej c).iv = s.iv := rfl
@[simp] theorem State.setRej_cblk (s : State) (c : BitVec 2) : (s.setRej c).cblk = s.cblk := rfl
@[simp] theorem State.setRej_dblk (s : State) (c : BitVec 2) : (s.setRej c).dblk = s.dblk := rfl
@[simp] theorem State.setRej_scr (s : State) (c : BitVec 2) : (s.setRej c).scr = s.scr := rfl
@[simp] theorem State.setRej_schedule (s : State) (c : BitVec 2) : (s.setRej c).schedule = s.schedule := rfl
@[simp] theorem State.setRej_rdata (s : State) (c : BitVec 2) : (s.setRej c).rdata = s.rdata := rfl
@[simp] theorem State.setRej_draws (s : State) (c : BitVec 2) : (s.setRej c).draws = s.draws := rfl
@[simp] theorem State.setRej_ready (s : State) (c : BitVec 2) : (s.setRej c).ready = s.ready := rfl
@[simp] theorem State.setRej_layout (s : State) (c : BitVec 2) : (s.setRej c).layout = s.layout := rfl
@[simp] theorem State.setRej_filterEn (s : State) (c : BitVec 2) : (s.setRej c).filterEn = s.filterEn := rfl
@[simp] theorem State.setRej_loadSup (s : State) (c : BitVec 2) : (s.setRej c).loadSup = s.loadSup := rfl
@[simp] theorem State.setRej_frameLen (s : State) (c : BitVec 2) : (s.setRej c).frameLen = s.frameLen := rfl
@[simp] theorem State.setRej_tolerance (s : State) (c : BitVec 2) : (s.setRej c).tolerance = s.tolerance := rfl
@[simp] theorem State.setRej_x (s : State) (c : BitVec 2) (j : Fin 8) : (s.setRej c).x j = s.x j := rfl
@[simp] theorem State.setRej_available (s : State) (c : BitVec 2) (j : Fin 8) : (s.setRej c).available j = s.available j := rfl
@[simp] theorem State.setRej_boundValue (s : State) (c : BitVec 2) (k : Bound) : (s.setRej c).boundValue k = s.boundValue k := by cases k <;> rfl

/-! ## `State.setSuppress` -/

@[simp] theorem State.setSuppress_v (s : State) (b : Bool) : (s.setSuppress b).v = s.v := rfl
@[simp] theorem State.setSuppress_stage (s : State) (b : Bool) : (s.setSuppress b).stage = s.stage := rfl
@[simp] theorem State.setSuppress_avail (s : State) (b : Bool) : (s.setSuppress b).avail = s.avail := rfl
@[simp] theorem State.setSuppress_dudmask (s : State) (b : Bool) : (s.setSuppress b).dudmask = s.dudmask := rfl
@[simp] theorem State.setSuppress_duds (s : State) (b : Bool) : (s.setSuppress b).duds = s.duds := rfl
@[simp] theorem State.setSuppress_misc (s : State) (b : Bool) : (s.setSuppress b).misc = s.misc := rfl
@[simp] theorem State.setSuppress_almcode (s : State) (b : Bool) : (s.setSuppress b).almcode = s.almcode := rfl
@[simp] theorem State.setSuppress_ctrl (s : State) (b : Bool) : (s.setSuppress b).ctrl = s.ctrl := rfl
@[simp] theorem State.setSuppress_status (s : State) (b : Bool) : (s.setSuppress b).status = putBit s.status 4 b := rfl
@[simp] theorem State.setSuppress_cfg (s : State) (b : Bool) : (s.setSuppress b).cfg = s.cfg := rfl
@[simp] theorem State.setSuppress_flen (s : State) (b : Bool) : (s.setSuppress b).flen = s.flen := rfl
@[simp] theorem State.setSuppress_ftol (s : State) (b : Bool) : (s.setSuppress b).ftol = s.ftol := rfl
@[simp] theorem State.setSuppress_vmin (s : State) (b : Bool) : (s.setSuppress b).vmin = s.vmin := rfl
@[simp] theorem State.setSuppress_vmax (s : State) (b : Bool) : (s.setSuppress b).vmax = s.vmax := rfl
@[simp] theorem State.setSuppress_imin (s : State) (b : Bool) : (s.setSuppress b).imin = s.imin := rfl
@[simp] theorem State.setSuppress_imax (s : State) (b : Bool) : (s.setSuppress b).imax = s.imax := rfl
@[simp] theorem State.setSuppress_emax (s : State) (b : Bool) : (s.setSuppress b).emax = s.emax := rfl
@[simp] theorem State.setSuppress_pmax (s : State) (b : Bool) : (s.setSuppress b).pmax = s.pmax := rfl
@[simp] theorem State.setSuppress_key (s : State) (b : Bool) : (s.setSuppress b).key = s.key := rfl
@[simp] theorem State.setSuppress_frame (s : State) (b : Bool) : (s.setSuppress b).frame = s.frame := rfl
@[simp] theorem State.setSuppress_iv (s : State) (b : Bool) : (s.setSuppress b).iv = s.iv := rfl
@[simp] theorem State.setSuppress_cblk (s : State) (b : Bool) : (s.setSuppress b).cblk = s.cblk := rfl
@[simp] theorem State.setSuppress_dblk (s : State) (b : Bool) : (s.setSuppress b).dblk = s.dblk := rfl
@[simp] theorem State.setSuppress_scr (s : State) (b : Bool) : (s.setSuppress b).scr = s.scr := rfl
@[simp] theorem State.setSuppress_schedule (s : State) (b : Bool) : (s.setSuppress b).schedule = s.schedule := rfl
@[simp] theorem State.setSuppress_rdata (s : State) (b : Bool) : (s.setSuppress b).rdata = s.rdata := rfl
@[simp] theorem State.setSuppress_draws (s : State) (b : Bool) : (s.setSuppress b).draws = s.draws := rfl
@[simp] theorem State.setSuppress_ready (s : State) (b : Bool) : (s.setSuppress b).ready = s.ready := rfl
@[simp] theorem State.setSuppress_layout (s : State) (b : Bool) : (s.setSuppress b).layout = s.layout := rfl
@[simp] theorem State.setSuppress_filterEn (s : State) (b : Bool) : (s.setSuppress b).filterEn = s.filterEn := rfl
@[simp] theorem State.setSuppress_loadSup (s : State) (b : Bool) : (s.setSuppress b).loadSup = s.loadSup := rfl
@[simp] theorem State.setSuppress_frameLen (s : State) (b : Bool) : (s.setSuppress b).frameLen = s.frameLen := rfl
@[simp] theorem State.setSuppress_tolerance (s : State) (b : Bool) : (s.setSuppress b).tolerance = s.tolerance := rfl
@[simp] theorem State.setSuppress_x (s : State) (b : Bool) (j : Fin 8) : (s.setSuppress b).x j = s.x j := rfl
@[simp] theorem State.setSuppress_available (s : State) (b : Bool) (j : Fin 8) : (s.setSuppress b).available j = s.available j := rfl
@[simp] theorem State.setSuppress_boundValue (s : State) (b : Bool) (k : Bound) : (s.setSuppress b).boundValue k = s.boundValue k := by cases k <;> rfl

/-! ## `State.setReady` -/

@[simp] theorem State.setReady_v (s : State) (b : Bool) : (s.setReady b).v = s.v := rfl
@[simp] theorem State.setReady_stage (s : State) (b : Bool) : (s.setReady b).stage = s.stage := rfl
@[simp] theorem State.setReady_avail (s : State) (b : Bool) : (s.setReady b).avail = s.avail := rfl
@[simp] theorem State.setReady_dudmask (s : State) (b : Bool) : (s.setReady b).dudmask = s.dudmask := rfl
@[simp] theorem State.setReady_duds (s : State) (b : Bool) : (s.setReady b).duds = s.duds := rfl
@[simp] theorem State.setReady_misc (s : State) (b : Bool) : (s.setReady b).misc = s.misc := rfl
@[simp] theorem State.setReady_almcode (s : State) (b : Bool) : (s.setReady b).almcode = s.almcode := rfl
@[simp] theorem State.setReady_ctrl (s : State) (b : Bool) : (s.setReady b).ctrl = putBit s.ctrl 0 b := rfl
@[simp] theorem State.setReady_status (s : State) (b : Bool) : (s.setReady b).status = s.status := rfl
@[simp] theorem State.setReady_cfg (s : State) (b : Bool) : (s.setReady b).cfg = s.cfg := rfl
@[simp] theorem State.setReady_flen (s : State) (b : Bool) : (s.setReady b).flen = s.flen := rfl
@[simp] theorem State.setReady_ftol (s : State) (b : Bool) : (s.setReady b).ftol = s.ftol := rfl
@[simp] theorem State.setReady_vmin (s : State) (b : Bool) : (s.setReady b).vmin = s.vmin := rfl
@[simp] theorem State.setReady_vmax (s : State) (b : Bool) : (s.setReady b).vmax = s.vmax := rfl
@[simp] theorem State.setReady_imin (s : State) (b : Bool) : (s.setReady b).imin = s.imin := rfl
@[simp] theorem State.setReady_imax (s : State) (b : Bool) : (s.setReady b).imax = s.imax := rfl
@[simp] theorem State.setReady_emax (s : State) (b : Bool) : (s.setReady b).emax = s.emax := rfl
@[simp] theorem State.setReady_pmax (s : State) (b : Bool) : (s.setReady b).pmax = s.pmax := rfl
@[simp] theorem State.setReady_key (s : State) (b : Bool) : (s.setReady b).key = s.key := rfl
@[simp] theorem State.setReady_frame (s : State) (b : Bool) : (s.setReady b).frame = s.frame := rfl
@[simp] theorem State.setReady_iv (s : State) (b : Bool) : (s.setReady b).iv = s.iv := rfl
@[simp] theorem State.setReady_cblk (s : State) (b : Bool) : (s.setReady b).cblk = s.cblk := rfl
@[simp] theorem State.setReady_dblk (s : State) (b : Bool) : (s.setReady b).dblk = s.dblk := rfl
@[simp] theorem State.setReady_scr (s : State) (b : Bool) : (s.setReady b).scr = s.scr := rfl
@[simp] theorem State.setReady_schedule (s : State) (b : Bool) : (s.setReady b).schedule = s.schedule := rfl
@[simp] theorem State.setReady_rdata (s : State) (b : Bool) : (s.setReady b).rdata = s.rdata := rfl
@[simp] theorem State.setReady_draws (s : State) (b : Bool) : (s.setReady b).draws = s.draws := rfl
@[simp] theorem State.setReady_done (s : State) (b : Bool) : (s.setReady b).done = s.done := rfl
@[simp] theorem State.setReady_accept (s : State) (b : Bool) : (s.setReady b).accept = s.accept := rfl
@[simp] theorem State.setReady_rej (s : State) (b : Bool) : (s.setReady b).rej = s.rej := rfl
@[simp] theorem State.setReady_suppress (s : State) (b : Bool) : (s.setReady b).suppress = s.suppress := rfl
@[simp] theorem State.setReady_layout (s : State) (b : Bool) : (s.setReady b).layout = s.layout := rfl
@[simp] theorem State.setReady_filterEn (s : State) (b : Bool) : (s.setReady b).filterEn = s.filterEn := rfl
@[simp] theorem State.setReady_loadSup (s : State) (b : Bool) : (s.setReady b).loadSup = s.loadSup := rfl
@[simp] theorem State.setReady_frameLen (s : State) (b : Bool) : (s.setReady b).frameLen = s.frameLen := rfl
@[simp] theorem State.setReady_tolerance (s : State) (b : Bool) : (s.setReady b).tolerance = s.tolerance := rfl
@[simp] theorem State.setReady_x (s : State) (b : Bool) (j : Fin 8) : (s.setReady b).x j = s.x j := rfl
@[simp] theorem State.setReady_available (s : State) (b : Bool) (j : Fin 8) : (s.setReady b).available j = s.available j := rfl
@[simp] theorem State.setReady_boundValue (s : State) (b : Bool) (k : Bound) : (s.setReady b).boundValue k = s.boundValue k := by cases k <;> rfl

/-! ## `State.setStage` -/

@[simp] theorem State.setStage_v (s : State) (c : BitVec 4) : (s.setStage c).v = s.v := rfl
@[simp] theorem State.setStage_stage (s : State) (c : BitVec 4) : (s.setStage c).stage = c := rfl
@[simp] theorem State.setStage_avail (s : State) (c : BitVec 4) : (s.setStage c).avail = s.avail := rfl
@[simp] theorem State.setStage_dudmask (s : State) (c : BitVec 4) : (s.setStage c).dudmask = s.dudmask := rfl
@[simp] theorem State.setStage_duds (s : State) (c : BitVec 4) : (s.setStage c).duds = s.duds := rfl
@[simp] theorem State.setStage_misc (s : State) (c : BitVec 4) : (s.setStage c).misc = s.misc := rfl
@[simp] theorem State.setStage_almcode (s : State) (c : BitVec 4) : (s.setStage c).almcode = s.almcode := rfl
@[simp] theorem State.setStage_ctrl (s : State) (c : BitVec 4) : (s.setStage c).ctrl = s.ctrl := rfl
@[simp] theorem State.setStage_status (s : State) (c : BitVec 4) : (s.setStage c).status = s.status := rfl
@[simp] theorem State.setStage_cfg (s : State) (c : BitVec 4) : (s.setStage c).cfg = s.cfg := rfl
@[simp] theorem State.setStage_flen (s : State) (c : BitVec 4) : (s.setStage c).flen = s.flen := rfl
@[simp] theorem State.setStage_ftol (s : State) (c : BitVec 4) : (s.setStage c).ftol = s.ftol := rfl
@[simp] theorem State.setStage_vmin (s : State) (c : BitVec 4) : (s.setStage c).vmin = s.vmin := rfl
@[simp] theorem State.setStage_vmax (s : State) (c : BitVec 4) : (s.setStage c).vmax = s.vmax := rfl
@[simp] theorem State.setStage_imin (s : State) (c : BitVec 4) : (s.setStage c).imin = s.imin := rfl
@[simp] theorem State.setStage_imax (s : State) (c : BitVec 4) : (s.setStage c).imax = s.imax := rfl
@[simp] theorem State.setStage_emax (s : State) (c : BitVec 4) : (s.setStage c).emax = s.emax := rfl
@[simp] theorem State.setStage_pmax (s : State) (c : BitVec 4) : (s.setStage c).pmax = s.pmax := rfl
@[simp] theorem State.setStage_key (s : State) (c : BitVec 4) : (s.setStage c).key = s.key := rfl
@[simp] theorem State.setStage_frame (s : State) (c : BitVec 4) : (s.setStage c).frame = s.frame := rfl
@[simp] theorem State.setStage_iv (s : State) (c : BitVec 4) : (s.setStage c).iv = s.iv := rfl
@[simp] theorem State.setStage_cblk (s : State) (c : BitVec 4) : (s.setStage c).cblk = s.cblk := rfl
@[simp] theorem State.setStage_dblk (s : State) (c : BitVec 4) : (s.setStage c).dblk = s.dblk := rfl
@[simp] theorem State.setStage_scr (s : State) (c : BitVec 4) : (s.setStage c).scr = s.scr := rfl
@[simp] theorem State.setStage_schedule (s : State) (c : BitVec 4) : (s.setStage c).schedule = s.schedule := rfl
@[simp] theorem State.setStage_rdata (s : State) (c : BitVec 4) : (s.setStage c).rdata = s.rdata := rfl
@[simp] theorem State.setStage_draws (s : State) (c : BitVec 4) : (s.setStage c).draws = s.draws := rfl
@[simp] theorem State.setStage_ready (s : State) (c : BitVec 4) : (s.setStage c).ready = s.ready := rfl
@[simp] theorem State.setStage_done (s : State) (c : BitVec 4) : (s.setStage c).done = s.done := rfl
@[simp] theorem State.setStage_accept (s : State) (c : BitVec 4) : (s.setStage c).accept = s.accept := rfl
@[simp] theorem State.setStage_rej (s : State) (c : BitVec 4) : (s.setStage c).rej = s.rej := rfl
@[simp] theorem State.setStage_suppress (s : State) (c : BitVec 4) : (s.setStage c).suppress = s.suppress := rfl
@[simp] theorem State.setStage_layout (s : State) (c : BitVec 4) : (s.setStage c).layout = s.layout := rfl
@[simp] theorem State.setStage_filterEn (s : State) (c : BitVec 4) : (s.setStage c).filterEn = s.filterEn := rfl
@[simp] theorem State.setStage_loadSup (s : State) (c : BitVec 4) : (s.setStage c).loadSup = s.loadSup := rfl
@[simp] theorem State.setStage_frameLen (s : State) (c : BitVec 4) : (s.setStage c).frameLen = s.frameLen := rfl
@[simp] theorem State.setStage_tolerance (s : State) (c : BitVec 4) : (s.setStage c).tolerance = s.tolerance := rfl
@[simp] theorem State.setStage_busy (s : State) (c : BitVec 4) : (s.setStage c).busy = s.busy := rfl
@[simp] theorem State.setStage_x (s : State) (c : BitVec 4) (j : Fin 8) : (s.setStage c).x j = s.x j := rfl
@[simp] theorem State.setStage_available (s : State) (c : BitVec 4) (j : Fin 8) : (s.setStage c).available j = s.available j := rfl
@[simp] theorem State.setStage_boundValue (s : State) (c : BitVec 4) (k : Bound) : (s.setStage c).boundValue k = s.boundValue k := by cases k <;> rfl

/-! ## `startEffect` -/

@[simp] theorem startEffect_v (s : State) : (startEffect s).v = Vector.replicate 8 0 := rfl
@[simp] theorem startEffect_stage (s : State) : (startEffect s).stage = 1 := rfl
@[simp] theorem startEffect_avail (s : State) : (startEffect s).avail = 0 := rfl
@[simp] theorem startEffect_dudmask (s : State) : (startEffect s).dudmask = 0 := rfl
@[simp] theorem startEffect_duds (s : State) : (startEffect s).duds = 0 := rfl
@[simp] theorem startEffect_misc (s : State) : (startEffect s).misc = 0 := rfl
@[simp] theorem startEffect_almcode (s : State) : (startEffect s).almcode = 0 := rfl
@[simp] theorem startEffect_ctrl (s : State) : (startEffect s).ctrl = putBit s.ctrl 0 true := rfl
@[simp] theorem startEffect_status (s : State) : (startEffect s).status = 0 := rfl
@[simp] theorem startEffect_cfg (s : State) : (startEffect s).cfg = s.cfg := rfl
@[simp] theorem startEffect_flen (s : State) : (startEffect s).flen = s.flen := rfl
@[simp] theorem startEffect_ftol (s : State) : (startEffect s).ftol = s.ftol := rfl
@[simp] theorem startEffect_vmin (s : State) : (startEffect s).vmin = s.vmin := rfl
@[simp] theorem startEffect_vmax (s : State) : (startEffect s).vmax = s.vmax := rfl
@[simp] theorem startEffect_imin (s : State) : (startEffect s).imin = s.imin := rfl
@[simp] theorem startEffect_imax (s : State) : (startEffect s).imax = s.imax := rfl
@[simp] theorem startEffect_emax (s : State) : (startEffect s).emax = s.emax := rfl
@[simp] theorem startEffect_pmax (s : State) : (startEffect s).pmax = s.pmax := rfl
@[simp] theorem startEffect_key (s : State) : (startEffect s).key = s.key := rfl
@[simp] theorem startEffect_frame (s : State) : (startEffect s).frame = s.frame := rfl
@[simp] theorem startEffect_iv (s : State) : (startEffect s).iv = zeroBlock := rfl
@[simp] theorem startEffect_cblk (s : State) : (startEffect s).cblk = zeroBlock := rfl
@[simp] theorem startEffect_dblk (s : State) : (startEffect s).dblk = zeroBlock := rfl
@[simp] theorem startEffect_scr (s : State) : (startEffect s).scr = s.scr := rfl
@[simp] theorem startEffect_schedule (s : State) : (startEffect s).schedule = s.schedule := rfl
@[simp] theorem startEffect_rdata (s : State) : (startEffect s).rdata = s.rdata := rfl
@[simp] theorem startEffect_draws (s : State) : (startEffect s).draws = s.draws := rfl

/-! ## `releaseEffect` -/

@[simp] theorem releaseEffect_v (s : State) : (releaseEffect s).v = s.v := rfl
@[simp] theorem releaseEffect_stage (s : State) : (releaseEffect s).stage = s.stage := rfl
@[simp] theorem releaseEffect_avail (s : State) : (releaseEffect s).avail = s.avail := rfl
@[simp] theorem releaseEffect_dudmask (s : State) : (releaseEffect s).dudmask = s.dudmask := rfl
@[simp] theorem releaseEffect_duds (s : State) : (releaseEffect s).duds = s.duds := rfl
@[simp] theorem releaseEffect_misc (s : State) : (releaseEffect s).misc = s.misc := rfl
@[simp] theorem releaseEffect_almcode (s : State) : (releaseEffect s).almcode = s.almcode := rfl
@[simp] theorem releaseEffect_ctrl (s : State) : (releaseEffect s).ctrl = putBit s.ctrl 0 false := rfl
@[simp] theorem releaseEffect_status (s : State) : (releaseEffect s).status = putBit s.status 0 false := rfl
@[simp] theorem releaseEffect_cfg (s : State) : (releaseEffect s).cfg = s.cfg := rfl
@[simp] theorem releaseEffect_flen (s : State) : (releaseEffect s).flen = s.flen := rfl
@[simp] theorem releaseEffect_ftol (s : State) : (releaseEffect s).ftol = s.ftol := rfl
@[simp] theorem releaseEffect_vmin (s : State) : (releaseEffect s).vmin = s.vmin := rfl
@[simp] theorem releaseEffect_vmax (s : State) : (releaseEffect s).vmax = s.vmax := rfl
@[simp] theorem releaseEffect_imin (s : State) : (releaseEffect s).imin = s.imin := rfl
@[simp] theorem releaseEffect_imax (s : State) : (releaseEffect s).imax = s.imax := rfl
@[simp] theorem releaseEffect_emax (s : State) : (releaseEffect s).emax = s.emax := rfl
@[simp] theorem releaseEffect_pmax (s : State) : (releaseEffect s).pmax = s.pmax := rfl
@[simp] theorem releaseEffect_key (s : State) : (releaseEffect s).key = s.key := rfl
@[simp] theorem releaseEffect_frame (s : State) : (releaseEffect s).frame = s.frame := rfl
@[simp] theorem releaseEffect_iv (s : State) : (releaseEffect s).iv = s.iv := rfl
@[simp] theorem releaseEffect_cblk (s : State) : (releaseEffect s).cblk = s.cblk := rfl
@[simp] theorem releaseEffect_dblk (s : State) : (releaseEffect s).dblk = s.dblk := rfl
@[simp] theorem releaseEffect_scr (s : State) : (releaseEffect s).scr = s.scr := rfl
@[simp] theorem releaseEffect_schedule (s : State) : (releaseEffect s).schedule = s.schedule := rfl
@[simp] theorem releaseEffect_rdata (s : State) : (releaseEffect s).rdata = s.rdata := rfl
@[simp] theorem releaseEffect_draws (s : State) : (releaseEffect s).draws = s.draws := rfl

/-! ## `raiseReject` -/

@[simp] theorem raiseReject_v (c : RejectCause) (s : State) : (raiseReject c s).v = s.v := rfl
@[simp] theorem raiseReject_stage (c : RejectCause) (s : State) : (raiseReject c s).stage = 8 := rfl
@[simp] theorem raiseReject_avail (c : RejectCause) (s : State) : (raiseReject c s).avail = s.avail := rfl
@[simp] theorem raiseReject_dudmask (c : RejectCause) (s : State) : (raiseReject c s).dudmask = s.dudmask := rfl
@[simp] theorem raiseReject_duds (c : RejectCause) (s : State) : (raiseReject c s).duds = s.duds := rfl
@[simp] theorem raiseReject_misc (c : RejectCause) (s : State) : (raiseReject c s).misc = s.misc := rfl
@[simp] theorem raiseReject_almcode (c : RejectCause) (s : State) : (raiseReject c s).almcode = s.almcode := rfl
@[simp] theorem raiseReject_ctrl (c : RejectCause) (s : State) : (raiseReject c s).ctrl = s.ctrl := rfl
@[simp] theorem raiseReject_status (c : RejectCause) (s : State) : (raiseReject c s).status = putPair s.status 2 (rejectCode c) := rfl
@[simp] theorem raiseReject_cfg (c : RejectCause) (s : State) : (raiseReject c s).cfg = s.cfg := rfl
@[simp] theorem raiseReject_flen (c : RejectCause) (s : State) : (raiseReject c s).flen = s.flen := rfl
@[simp] theorem raiseReject_ftol (c : RejectCause) (s : State) : (raiseReject c s).ftol = s.ftol := rfl
@[simp] theorem raiseReject_vmin (c : RejectCause) (s : State) : (raiseReject c s).vmin = s.vmin := rfl
@[simp] theorem raiseReject_vmax (c : RejectCause) (s : State) : (raiseReject c s).vmax = s.vmax := rfl
@[simp] theorem raiseReject_imin (c : RejectCause) (s : State) : (raiseReject c s).imin = s.imin := rfl
@[simp] theorem raiseReject_imax (c : RejectCause) (s : State) : (raiseReject c s).imax = s.imax := rfl
@[simp] theorem raiseReject_emax (c : RejectCause) (s : State) : (raiseReject c s).emax = s.emax := rfl
@[simp] theorem raiseReject_pmax (c : RejectCause) (s : State) : (raiseReject c s).pmax = s.pmax := rfl
@[simp] theorem raiseReject_key (c : RejectCause) (s : State) : (raiseReject c s).key = s.key := rfl
@[simp] theorem raiseReject_frame (c : RejectCause) (s : State) : (raiseReject c s).frame = s.frame := rfl
@[simp] theorem raiseReject_iv (c : RejectCause) (s : State) : (raiseReject c s).iv = s.iv := rfl
@[simp] theorem raiseReject_cblk (c : RejectCause) (s : State) : (raiseReject c s).cblk = s.cblk := rfl
@[simp] theorem raiseReject_dblk (c : RejectCause) (s : State) : (raiseReject c s).dblk = s.dblk := rfl
@[simp] theorem raiseReject_scr (c : RejectCause) (s : State) : (raiseReject c s).scr = s.scr := rfl
@[simp] theorem raiseReject_schedule (c : RejectCause) (s : State) : (raiseReject c s).schedule = s.schedule := rfl
@[simp] theorem raiseReject_rdata (c : RejectCause) (s : State) : (raiseReject c s).rdata = s.rdata := rfl
@[simp] theorem raiseReject_draws (c : RejectCause) (s : State) : (raiseReject c s).draws = s.draws := rfl

end Sys2Proof.Machine
end

