-- ==== Sys2Proof/Laws/Flags.lean ====
section
/-! SUPPORT. What the flag operations of Machine/Flags.lean do, bit by bit. -/

namespace Sys2Proof.Machine

theorem putBit_getLsbD {n : Nat} (r : BitVec n) (i j : Nat) (b : Bool) :
    (putBit r i b).getLsbD j = if j = i ∧ j < n then b else r.getLsbD j := by
  unfold putBit
  by_cases hj : j < n
  · by_cases hij : j = i
    · subst hij
      cases b <;> simp [hj]
    · cases b <;> simp [hj, hij]
  · have hr : r.getLsbD j = false := BitVec.getLsbD_of_ge r j (Nat.le_of_not_lt hj)
    cases b
    · simp [hj, hr]
    · simp only [if_true, BitVec.getLsbD_or, hr, BitVec.getLsbD_twoPow, hj, and_false, if_false, Bool.false_or,
        Bool.and_eq_false_imp]
      intro h
      exact decide_eq_false fun e => hj (e ▸ of_decide_eq_true h)

/-- The form simp works in: a bit at an index below the width. -/
@[simp] theorem putBit_getElem {n : Nat} (r : BitVec n) (i j : Nat) (b : Bool) (h : j < n) :
    (putBit r i b)[j] = if j = i then b else r[j] := by
  have := putBit_getLsbD r i j b
  simpa [BitVec.getLsbD_eq_getElem h, h] using this

theorem putBit_getLsbD_ne {n : Nat} (r : BitVec n) {i j : Nat} (b : Bool) (h : j ≠ i) :
    (putBit r i b).getLsbD j = r.getLsbD j := by
  simp [putBit_getLsbD, h]

theorem putPair_getLsbD {n : Nat} (r : BitVec n) (i j : Nat) (v : BitVec 2) :
    (putPair r i v).getLsbD j =
      if j = i + 1 ∧ j < n then v.getLsbD 1 else if j = i ∧ j < n then v.getLsbD 0 else r.getLsbD j := by
  rw [putPair, putBit_getLsbD, putBit_getLsbD]

@[simp] theorem putPair_getElem {n : Nat} (r : BitVec n) (i j : Nat) (v : BitVec 2) (h : j < n) :
    (putPair r i v)[j] = if j = i + 1 then v[1] else if j = i then v[0] else r[j] := by
  simp [putPair]

theorem popcount_le {n : Nat} (r : BitVec n) : popcount r ≤ n := by
  unfold popcount
  exact (List.countP_le_length).trans (by simp)

/-- A register bit written and read back through its accessor. -/
@[simp] theorem State.setDone_done (s : State) (b : Bool) : (s.setDone b).done = b := by
  simp [State.done]

@[simp] theorem State.setReady_ready (s : State) (b : Bool) : (s.setReady b).ready = b := by
  simp [State.ready]

@[simp] theorem State.setAccept_accept (s : State) (b : Bool) : (s.setAccept b).accept = b := by
  simp [State.accept]

@[simp] theorem State.setSuppress_suppress (s : State) (b : Bool) : (s.setSuppress b).suppress = b := by
  simp [State.suppress]

@[simp] theorem State.setAccept_done (s : State) (b : Bool) : (s.setAccept b).done = s.done := by
  simp [State.done]

@[simp] theorem State.setSuppress_done (s : State) (b : Bool) : (s.setSuppress b).done = s.done := by
  simp [State.done]

@[simp] theorem State.setRej_done (s : State) (c : BitVec 2) : (s.setRej c).done = s.done := by
  simp [State.done]

theorem State.setAvail_available (s : State) (i j : Fin 8) (b : Bool) :
    (s.setAvail i b).available j = if j = i then b else s.available j := by
  simp only [State.available, State.setAvail_avail, putBit_getLsbD, Fin.ext_iff]
  have := j.isLt
  simp [this]

theorem State.setX_x_same (s : State) (i : Fin 8) (z : Int) (h : -2 ^ 31 ≤ z) (h' : z < 2 ^ 31) :
    (s.setX i z).x i = z := by
  simp only [State.x, State.setX_v, Fin.getElem_fin, Vector.getElem_set_self, BitVec.toInt_ofInt]
  rw [Int.bmod_def]
  omega

theorem State.setX_x_ne (s : State) {i j : Fin 8} (z : Int) (h : j ≠ i) : (s.setX i z).x j = s.x j := by
  have hij : i.val ≠ j.val := fun e => h (Fin.ext e.symm)
  simp [State.x, Vector.getElem_set_ne, hij]

end Sys2Proof.Machine
end

