-- ==== Sys2Proof/Laws/Operands.lean ====
section
/-! SUPPORT. The fields of a block by its bytes, and two's-complement decoding by cases. -/

namespace Sys2Proof.Machine

/-- Every byte of a block is below 256, in the form omega reads. -/
theorem block_bytes_lt (d : Block) :
    d[0].toNat < 256 ∧ d[1].toNat < 256 ∧ d[2].toNat < 256 ∧ d[3].toNat < 256 ∧ d[4].toNat < 256 ∧ d[5].toNat < 256 ∧
      d[6].toNat < 256 ∧ d[7].toNat < 256 ∧ d[8].toNat < 256 ∧ d[9].toNat < 256 ∧ d[10].toNat < 256 ∧
      d[11].toNat < 256 ∧ d[12].toNat < 256 ∧ d[13].toNat < 256 ∧ d[14].toNat < 256 ∧ d[15].toNat < 256 := by
  refine ⟨?_, ?_, ?_, ?_, ?_, ?_, ?_, ?_, ?_, ?_, ?_, ?_, ?_, ?_, ?_, ?_⟩ <;> exact BitVec.isLt _

theorem blockInt_lt (d : Block) : blockInt d < 2 ^ 128 := by
  have := block_bytes_lt d
  unfold blockInt
  omega

theorem extract_lt (d : Block) (off w : Nat) : extract d off w < 2 ^ w := Nat.mod_lt _ (Nat.two_pow_pos w)

theorem le16_lt (lo hi : Byte) : le16 lo hi < 65536 := by
  have := lo.isLt
  have := hi.isLt
  unfold le16
  omega

theorem fieldBmTtg_raw (d : Block) : fieldBmTtg.raw d = le16 d[0] d[1] := by
  have := block_bytes_lt d
  simp only [FieldSpec.raw, fieldBmTtg, Nat.shiftRight_eq_div_pow, extract, blockInt, le16]
  omega

theorem fieldBmVbat_raw (d : Block) : fieldBmVbat.raw d = le16 d[2] d[3] := by
  have := block_bytes_lt d
  simp only [FieldSpec.raw, fieldBmVbat, Nat.shiftRight_eq_div_pow, extract, blockInt, le16]
  omega

theorem fieldBmAlarm_raw (d : Block) : fieldBmAlarm.raw d = le16 d[4] d[5] := by
  have := block_bytes_lt d
  simp only [FieldSpec.raw, fieldBmAlarm, Nat.shiftRight_eq_div_pow, extract, blockInt, le16]
  omega

theorem fieldBmAuxVolt_raw (d : Block) : fieldBmAuxVolt.raw d = le16 d[6] d[7] := by
  have := block_bytes_lt d
  simp only [FieldSpec.raw, fieldBmAuxVolt, Nat.shiftRight_eq_div_pow, extract, blockInt, le16]
  omega

theorem fieldBmAuxKelvin_raw (d : Block) : fieldBmAuxKelvin.raw d = le16 d[6] d[7] := by
  have := block_bytes_lt d
  simp only [FieldSpec.raw, fieldBmAuxKelvin, Nat.shiftRight_eq_div_pow, extract, blockInt, le16]
  omega

theorem fieldBmIbat_raw (d : Block) : fieldBmIbat.raw d = rawBmIbat d := by
  have := block_bytes_lt d
  simp only [FieldSpec.raw, fieldBmIbat, Nat.shiftRight_eq_div_pow, extract, blockInt, rawBmIbat]
  omega

theorem fieldBmCons_raw (d : Block) : fieldBmCons.raw d = rawBmCons d := by
  have := block_bytes_lt d
  simp only [FieldSpec.raw, fieldBmCons, Nat.shiftRight_eq_div_pow, extract, blockInt, rawBmCons]
  omega

theorem fieldBmSoc_raw (d : Block) : fieldBmSoc.raw d = rawBmSoc d := by
  have := block_bytes_lt d
  simp only [FieldSpec.raw, fieldBmSoc, Nat.shiftRight_eq_div_pow, extract, blockInt, rawBmSoc]
  omega

theorem fieldScState_raw (d : Block) : fieldScState.raw d = d[0].toNat := by
  have := block_bytes_lt d
  simp only [FieldSpec.raw, fieldScState, Nat.shiftRight_eq_div_pow, extract, blockInt]
  omega

theorem fieldScErr_raw (d : Block) : fieldScErr.raw d = d[1].toNat := by
  have := block_bytes_lt d
  simp only [FieldSpec.raw, fieldScErr, Nat.shiftRight_eq_div_pow, extract, blockInt]
  omega

theorem fieldScVbat_raw (d : Block) : fieldScVbat.raw d = le16 d[2] d[3] := by
  have := block_bytes_lt d
  simp only [FieldSpec.raw, fieldScVbat, Nat.shiftRight_eq_div_pow, extract, blockInt, le16]
  omega

theorem fieldScIbat_raw (d : Block) : fieldScIbat.raw d = le16 d[4] d[5] := by
  have := block_bytes_lt d
  simp only [FieldSpec.raw, fieldScIbat, Nat.shiftRight_eq_div_pow, extract, blockInt, le16]
  omega

theorem fieldScEday_raw (d : Block) : fieldScEday.raw d = le16 d[6] d[7] := by
  have := block_bytes_lt d
  simp only [FieldSpec.raw, fieldScEday, Nat.shiftRight_eq_div_pow, extract, blockInt, le16]
  omega

theorem fieldScPv_raw (d : Block) : fieldScPv.raw d = le16 d[8] d[9] := by
  have := block_bytes_lt d
  simp only [FieldSpec.raw, fieldScPv, Nat.shiftRight_eq_div_pow, extract, blockInt, le16]
  omega

theorem fieldScIload_raw (d : Block) : fieldScIload.raw d = rawScIload d := by
  have := block_bytes_lt d
  simp only [FieldSpec.raw, fieldScIload, Nat.shiftRight_eq_div_pow, extract, blockInt, rawScIload]
  omega

theorem auxSelector_eq (d : Block) : auxSelector d = rawAuxSel d := by
  have := block_bytes_lt d
  simp only [auxSelector, rawAuxSel, Nat.shiftRight_eq_div_pow, extract, blockInt]
  omega

/-- The selector the decoder looks at is the two low bits of byte 8 (R72). -/
theorem blockAux_blockWord (d : Block) : (blockAux (blockWord d)).toNat = rawAuxSel d := by
  rw [← auxSelector_eq, blockAux, blockWord, BitVec.extractLsb'_toNat, BitVec.toNat_ofNat,
    Nat.mod_eq_of_lt (blockInt_lt d)]
  rfl

theorem tc16_eq (raw : Nat) : tc 16 raw = signed16 raw := rfl

theorem tc22_eq (raw : Nat) : tc 22 raw = signed22 raw := rfl

/-- `tc_w` is the one integer of the signed range that differs from `raw` by 0 or `2^w` (R8). -/
theorem tc_range {w raw : Nat} (hw : 1 ≤ w) (h : raw < 2 ^ w) :
    -(2 ^ (w - 1) : Int) ≤ tc w raw ∧ tc w raw < 2 ^ (w - 1) := by
  obtain ⟨k, rfl⟩ : ∃ k, w = k + 1 := ⟨w - 1, by omega⟩
  have hp : (2 : Int) ^ (k + 1) = 2 * 2 ^ k := by ring
  have hn : (2 : Nat) ^ (k + 1) = 2 * 2 ^ k := by ring
  have hc : ((2 ^ k : Nat) : Int) = 2 ^ k := by push_cast; rfl
  simp only [tc, Nat.add_sub_cancel]
  split <;> omega

end Sys2Proof.Machine
end

