-- ==== Sys2Proof/Laws/Ops.lean ====
section
/-! SUPPORT. What each shared operation of Machine/Ops.lean can do, said once. -/

namespace Sys2Proof.Machine

/-! ## The register space -/

/-- CTRL is the register at address 0 and at no other (R41). -/
theorem regAt_eq_ctrl (a : Byte) : regAt a = some .ctrl ↔ a = 0 := by
  revert a
  decide +kernel

/-! ## Writing a register: what it never changes -/

@[simp] theorem State.writeReg_v (s : State) (r : Reg) (v : Byte) : (s.writeReg r v).v = s.v := by
  cases r <;> first | rfl | (rename_i b high; cases b <;> rfl)

@[simp] theorem State.writeReg_stage (s : State) (r : Reg) (v : Byte) : (s.writeReg r v).stage = s.stage := by
  cases r <;> first | rfl | (rename_i b high; cases b <;> rfl)

@[simp] theorem State.writeReg_avail (s : State) (r : Reg) (v : Byte) : (s.writeReg r v).avail = s.avail := by
  cases r <;> first | rfl | (rename_i b high; cases b <;> rfl)

@[simp] theorem State.writeReg_dudmask (s : State) (r : Reg) (v : Byte) : (s.writeReg r v).dudmask = s.dudmask := by
  cases r <;> first | rfl | (rename_i b high; cases b <;> rfl)

@[simp] theorem State.writeReg_duds (s : State) (r : Reg) (v : Byte) : (s.writeReg r v).duds = s.duds := by
  cases r <;> first | rfl | (rename_i b high; cases b <;> rfl)

@[simp] theorem State.writeReg_misc (s : State) (r : Reg) (v : Byte) : (s.writeReg r v).misc = s.misc := by
  cases r <;> first | rfl | (rename_i b high; cases b <;> rfl)

@[simp] theorem State.writeReg_almcode (s : State) (r : Reg) (v : Byte) : (s.writeReg r v).almcode = s.almcode := by
  cases r <;> first | rfl | (rename_i b high; cases b <;> rfl)

@[simp] theorem State.writeReg_ctrl (s : State) (r : Reg) (v : Byte) : (s.writeReg r v).ctrl = s.ctrl := by
  cases r <;> first | rfl | (rename_i b high; cases b <;> rfl)

@[simp] theorem State.writeReg_status (s : State) (r : Reg) (v : Byte) : (s.writeReg r v).status = s.status := by
  cases r <;> first | rfl | (rename_i b high; cases b <;> rfl)

@[simp] theorem State.writeReg_iv (s : State) (r : Reg) (v : Byte) : (s.writeReg r v).iv = s.iv := by
  cases r <;> first | rfl | (rename_i b high; cases b <;> rfl)

@[simp] theorem State.writeReg_cblk (s : State) (r : Reg) (v : Byte) : (s.writeReg r v).cblk = s.cblk := by
  cases r <;> first | rfl | (rename_i b high; cases b <;> rfl)

@[simp] theorem State.writeReg_dblk (s : State) (r : Reg) (v : Byte) : (s.writeReg r v).dblk = s.dblk := by
  cases r <;> first | rfl | (rename_i b high; cases b <;> rfl)

@[simp] theorem State.writeReg_scr (s : State) (r : Reg) (v : Byte) : (s.writeReg r v).scr = s.scr := by
  cases r <;> first | rfl | (rename_i b high; cases b <;> rfl)

@[simp] theorem State.writeReg_schedule (s : State) (r : Reg) (v : Byte) : (s.writeReg r v).schedule = s.schedule := by
  cases r <;> first | rfl | (rename_i b high; cases b <;> rfl)

@[simp] theorem State.writeReg_rdata (s : State) (r : Reg) (v : Byte) : (s.writeReg r v).rdata = s.rdata := by
  cases r <;> first | rfl | (rename_i b high; cases b <;> rfl)

@[simp] theorem State.writeReg_draws (s : State) (r : Reg) (v : Byte) : (s.writeReg r v).draws = s.draws := by
  cases r <;> first | rfl | (rename_i b high; cases b <;> rfl)

/-! ## The host's accesses -/

/-- A read changes the model's own fields only (R45). -/
theorem hostRead_frame (a : Byte) (s : State) : ∃ b n, hostRead a s = { s with rdata := b, draws := n } := by
  unfold hostRead
  split
  · exact ⟨_, _, rfl⟩
  · split <;> exact ⟨_, _, rfl⟩

/-- Outside the processing window a read hands over the exact byte (R47, R90). -/
theorem hostRead_exact (a : Byte) (s : State) (h : s.busy = false) : hostRead a s = { s with rdata := s.peek a } := by
  unfold hostRead State.peek
  split <;> simp [h]

/-- Inside the processing window a read of a per-frame register draws a byte of the register's width, the exact bits
apart (R47, U1). -/
theorem hostRead_unspecified {a : Byte} {r : Reg} (s : State) (hr : regAt a = some r) (hb : s.busy = true)
    (hp : r.perFrame = true) :
    hostRead a s =
      { s with
        rdata := (Config.freeByte s.draws &&& r.widthMask &&& ~~~r.exactMask) ||| (s.readReg r &&& r.exactMask)
        draws := s.draws + 1 } := by
  simp [hostRead, hr, hb, hp]

/-- STATUS.DONE is exact in every read (R47). -/
theorem hostRead_status_done (s : State) : (hostRead 0x01 s).rdata.getLsbD 0 = s.done := by
  have hr : regAt 0x01 = some .status := by decide
  by_cases hb : s.busy = true
  · rw [hostRead_unspecified s hr hb rfl]
    simp [Reg.exactMask, Reg.widthMask, State.readReg, State.done]
  · have hp : s.peek 0x01 = s.status &&& 0x1F := rfl
    rw [hostRead_exact 0x01 s (by simpa using hb), hp]
    simp [State.done]

/-- What a write can do: nothing, START, RELEASE, or one register written while unlocked. -/
theorem hostWrite_cases (a v : Byte) (s : State) :
    hostWrite a v s = s ∨ (a = 0 ∧ v.getLsbD 0 = true ∧ s.ready = false ∧ hostWrite a v s = startEffect s) ∨
      (a = 0 ∧ v.getLsbD 0 = false ∧ s.ready = true ∧ s.done = true ∧ hostWrite a v s = releaseEffect s) ∨
      (a ≠ 0 ∧ s.ready = false ∧ ∃ r, regAt a = some r ∧ hostWrite a v s = s.writeReg r v) := by
  unfold hostWrite
  by_cases ha : a = 0
  · rw [if_pos ha]
    split
    · rename_i h
      simp only [Bool.and_eq_true, Bool.not_eq_true'] at h
      exact Or.inr (Or.inl ⟨ha, h.1, h.2, rfl⟩)
    · split
      · rename_i h
        simp only [Bool.and_eq_true, Bool.not_eq_true'] at h
        exact Or.inr (Or.inr (Or.inl ⟨ha, h.1.1, h.1.2, h.2, rfl⟩))
      · exact Or.inl rfl
  · rw [if_neg ha]
    split
    · exact Or.inl rfl
    · rename_i hr
      split
      · exact Or.inl rfl
      · rename_i r hg
        exact Or.inr (Or.inr (Or.inr ⟨ha, by simpa using hr, r, hg, rfl⟩))

/-- While a frame is processed no access changes a register: a write is dropped or without effect (R46, R93). -/
theorem hostWrite_busy (a v : Byte) (s : State) (h : s.busy = true) : hostWrite a v s = s := by
  simp only [State.busy, Bool.and_eq_true, Bool.not_eq_true'] at h
  obtain hw | ⟨_, _, hr, _⟩ | ⟨_, _, _, hd, _⟩ | ⟨_, hr, _⟩ := hostWrite_cases a v s
  · exact hw
  · simp [h.1] at hr
  · simp [h.2] at hd
  · simp [h.1] at hr

/-! ## Fields of START and RELEASE -/

@[simp] theorem startEffect_ready (s : State) : (startEffect s).ready = true := by simp [State.ready]

@[simp] theorem startEffect_done (s : State) : (startEffect s).done = false := by simp [State.done]

@[simp] theorem releaseEffect_ready (s : State) : (releaseEffect s).ready = false := by simp [State.ready]

@[simp] theorem releaseEffect_done (s : State) : (releaseEffect s).done = false := by simp [State.done]

/-! ## Unpacking a field -/

/-- A count within 32 signed bits reads back as it was stored (R8). -/
theorem State.setX_x (s : State) (i : Fin 8) {z : Int} (lo : -2147483648 ≤ z) (hi : z < 2147483648) :
    (s.setX i z).x i = z := by
  simp only [State.x, State.setX_v]
  have e : (s.v.set i.val (BitVec.ofInt 32 z))[i] = BitVec.ofInt 32 z := Vector.getElem_set_self i.isLt
  rw [e, BitVec.toInt_ofInt]
  simp only [Int.bmod_def]
  omega

/-- Storing a count and its flag is all an unpack operation does but for MISC (R130, R150). -/
theorem unpacked_setX_setAvail (s : State) (i : Fin 8) {z : Int} (b : Bool) (lo : -2147483648 ≤ z)
    (hi : z < 2147483648) : Unpacked s ((s.setX i z).setAvail i b) i z b := by
  refine ⟨rfl, State.setX_x s i lo hi, fun j hj => ?_, ?_, fun j hj => putBit_getLsbD_ne _ _ hj⟩
  · exact Vector.getElem_set_ne (i := i.val) (j := j.val) i.isLt j.isLt fun e => hj (Fin.ext e.symm)
  · simp only [State.setAvail_avail, State.setX_avail, putBit_getLsbD, i.isLt, and_self, if_true]

/-- What `unpackPlain` does (D20). -/
theorem unpackPlain_unpacked (f : FieldSpec) (s : State) (hw : f.w ≤ 31) :
    Unpacked s (unpackPlain f s) f.reg (f.raw s.dblk) true := by
  have h : f.raw s.dblk < 2 ^ 31 := (extract_lt _ _ _).trans_le (Nat.pow_le_pow_right (by decide) hw)
  exact unpacked_setX_setAvail s f.reg true (by omega) (by omega)

/-- What `unpackUnsigned` does (R69, R71). -/
theorem unpackUnsigned_unpacked (f : FieldSpec) (s : State) (hw : f.w ≤ 31) :
    Unpacked s (unpackUnsigned f s) f.reg (f.raw s.dblk) (!isSentinel f.w (f.raw s.dblk)) := by
  have h : f.raw s.dblk < 2 ^ 31 := (extract_lt _ _ _).trans_le (Nat.pow_le_pow_right (by decide) hw)
  exact unpacked_setX_setAvail s f.reg _ (by omega) (by omega)

/-- What `unpackSigned` does (R70, R71). -/
theorem unpackSigned_unpacked (f : FieldSpec) (s : State) (hl : 1 ≤ f.w) (hw : f.w ≤ 32) :
    Unpacked s (unpackSigned f s) f.reg (tc f.w (f.raw s.dblk)) (!isSignedSentinel f.w (f.raw s.dblk)) := by
  obtain ⟨lo, hi⟩ := tc_range hl (extract_lt s.dblk f.off f.w)
  have hp : (2 : Int) ^ (f.w - 1) ≤ 2 ^ 31 := by
    exact_mod_cast Nat.pow_le_pow_right (show 0 < 2 by decide) (show f.w - 1 ≤ 31 by omega)
  exact unpacked_setX_setAvail s f.reg _ (by simp only [FieldSpec.raw]; omega) (by simp only [FieldSpec.raw]; omega)

/-! ## Reset -/

/-- The reset input leaves the registers as State.reset has them (R220). -/
@[simp] theorem blockOf_resetBlock (s : State) : blockOf (resetBlock s) = State.reset := rfl

end Sys2Proof.Machine
end

