-- ==== Sys2Proof/Laws/Step.lean ====
section
/-! SUPPORT. What a step can do, said once: every operation answers a next state, the sequencer's step stage by stage, and
the turns. -/

namespace Sys2Proof

@[simp] theorem stageCode_stageWord (c : BitVec 4) (l : Bool) : stageCode (stageWord c l) = c := by
  revert c l
  decide

@[simp] theorem stageLayout_stageWord (c : BitVec 4) (l : Bool) : stageLayout (stageWord c l) = l := by
  revert c l
  decide

/-- The fields of a host word are what it was made of (R78). -/
@[simp] theorem hostIsWrite_hostWord (d : Bool) (a v : Byte) : hostIsWrite (hostWord d a v) = d := by
  simp only [hostIsWrite, hostWord, bit, BitVec.getLsbD_append]
  cases d <;> simp

@[simp] theorem hostAddr_hostWord (d : Bool) (a v : Byte) : hostAddr (hostWord d a v) = a := by
  unfold hostAddr hostWord bit
  apply BitVec.eq_of_getLsbD_eq
  intro i hi
  simp only [BitVec.getLsbD_extractLsb', BitVec.getLsbD_append]
  have h1 : ¬(8 + i < 8) := by omega
  simp [hi]

@[simp] theorem hostData_hostWord (d : Bool) (a v : Byte) : hostData (hostWord d a v) = v := by
  unfold hostData hostWord bit
  apply BitVec.eq_of_getLsbD_eq
  intro i hi
  simp only [BitVec.getLsbD_extractLsb', BitVec.getLsbD_append]
  simp [hi]

end Sys2Proof

namespace Sys2Proof.Machine

/-- Every operation answers a next state: the block has no fault of its own (R201). -/
theorem exec_next (i : Instr) (s : State) : ∃ t, exec i s = .next t := by
  cases i <;> first | exact ⟨_, rfl⟩ | (simp only [exec, execChkFrm]; split <;> first | exact ⟨_, rfl⟩ | (split <;> exact ⟨_, rfl⟩))

theorem runOps_next (ops : List Instr) (s : State) : ∃ t, runOps ops s = .next t := by
  induction ops generalizing s with
  | nil => exact ⟨s, rfl⟩
  | cons i is ih =>
    obtain ⟨t, ht⟩ := exec_next i s
    obtain ⟨u, hu⟩ := ih t
    exact ⟨u, by simp [runOps, ht, hu]⟩

/-! ## The sequencer's step, stage by stage (R94) -/

theorem sequencerStep_chk (s : State) (h : s.stage = 1) : sequencerStep s = exec .chkFrm s := by
  obtain ⟨t, ht⟩ := exec_next .chkFrm s
  simp [sequencerStep, State.stageWord, h, decode, decodeStage, runOps, ht, advanceStage]

theorem sequencerStep_ivg (s : State) (h : s.stage = 2) : sequencerStep s = exec .genIv s := by
  obtain ⟨t, ht⟩ := exec_next .genIv s
  simp [sequencerStep, State.stageWord, h, decode, decodeStage, runOps, ht, advanceStage]

theorem sequencerStep_ldb (s : State) (h : s.stage = 3) : sequencerStep s = exec .ldBlk s := by
  obtain ⟨t, ht⟩ := exec_next .ldBlk s
  simp [sequencerStep, State.stageWord, h, decode, decodeStage, runOps, ht, advanceStage]

theorem sequencerStep_dec (s : State) (h : s.stage = 4) : sequencerStep s = exec .decr s := by
  obtain ⟨t, ht⟩ := exec_next .decr s
  simp [sequencerStep, State.stageWord, h, decode, decodeStage, runOps, ht, advanceStage]

/-- Stage UNP (R100). -/
theorem sequencerStep_unp (s t : State) (h : s.stage = 5)
    (ht : runOps (if s.layout then scOps else bmOps (blockWord s.dblk)) s = .next t) :
    sequencerStep s = .next (t.setStage 6) := by
  simp [sequencerStep, State.stageWord, h, decode, decodeStage, ht, advanceStage]

/-- Stage COD (R101). -/
theorem sequencerStep_cod (s t : State) (h : s.stage = 6)
    (ht : runOps (if s.layout then [.stCode, .erCode] else [.almCode]) s = .next t) :
    sequencerStep s = .next (t.setStage 7) := by
  simp [sequencerStep, State.stageWord, h, decode, decodeStage, ht, advanceStage]

/-- Stage RNG (R102). -/
theorem sequencerStep_rng (s t : State) (h : s.stage = 7)
    (ht : runOps (if s.layout then rngOps else [.dudSum]) s = .next t) : sequencerStep s = .next t := by
  simp [sequencerStep, State.stageWord, h, decode, decodeStage, ht, advanceStage]

theorem sequencerStep_fin (s : State) (h : s.stage = 8) : sequencerStep s = exec .fin s := by
  obtain ⟨t, ht⟩ := exec_next .fin s
  simp [sequencerStep, State.stageWord, h, decode, decodeStage, runOps, ht, advanceStage]

/-! ## Turns -/

/-- What a step can do: the head of the schedule takes its turn, or the sequencer does when none is left. -/
theorem step_cases {s t : State} (h : step s = .next t) :
    (s.schedule = [] ∧ sequencerTurn s = .next t) ∨
      (∃ u us, s.schedule = u :: us ∧ takeTurn u { s with schedule := us } = .next t) := by
  unfold step nextTurn at h
  split at h
  · exact Or.inl ⟨by assumption, h⟩
  · exact Or.inr ⟨_, _, by assumption, h⟩

/-- A read turn is the host's read (R78, R90). -/
@[simp] theorem takeTurn_turnRead (a : Byte) (s : State) : takeTurn (turnRead a) s = .next (hostRead a s) := by
  simp only [takeTurn, turnRead, hostTurn, decodeHost, hostIsWrite_hostWord, hostAddr_hostWord, Bool.false_eq_true,
    if_false]
  rfl

/-- A write turn is the host's write, at CTRL as at any other address (R78, R91). -/
@[simp] theorem takeTurn_turnWrite (a v : Byte) (s : State) : takeTurn (turnWrite a v) s = .next (hostWrite a v s) := by
  simp only [takeTurn, turnWrite, hostTurn, decodeHost, hostIsWrite_hostWord, hostAddr_hostWord, hostData_hostWord,
    if_true]
  split
  · next ha => subst ha; split <;> split <;> rfl
  · rfl

/-- Turns one after the other: a list in two parts (R50). -/
theorem runTurns_append {p : List Turn} {s t : State} (q : List Turn) (h : runTurns p s = .next t) :
    runTurns (p ++ q) s = runTurns q t := by
  induction p generalizing s with
  | nil => simp only [runTurns, Host.Outcome.next.injEq] at h; rw [List.nil_append, h]
  | cons u us ih =>
    simp only [runTurns, List.cons_append] at h ⊢
    split at h <;> simp_all

/-- The host's turn is one access: a read or a write (R40). -/
theorem hostTurn_cases (w : HostWord) (s : State) :
    hostTurn w s = .next (hostRead (hostAddr w) s) ∨ ∃ a v, hostTurn w s = .next (hostWrite a v s) := by
  unfold hostTurn decodeHost
  split
  · right
    split
    · split
      · split <;> exact ⟨_, _, rfl⟩
      · split <;> exact ⟨_, _, rfl⟩
    · exact ⟨_, _, rfl⟩
  · exact Or.inl rfl

end Sys2Proof.Machine
end

