-- ==== Sys2Proof/Laws/PerInstr.lean ====
section
/-! SUPPORT. Statements about every instruction as syntax, one lemma per constructor. -/

namespace Sys2Proof.Laws.RowFitsEncoding

/-- The selector the encoder writes has the fixed bits of the instruction's row of spec/opcode_table.json. -/
def Statement (i : Instr) : Prop := i.wf = true → i.row.fits (encode i) = true

/-- The bits of a host word under the mask of the CTRL rows: the direction, the address, and `v[0]`. -/
theorem ctrl_mask (v : Byte) (b : Bool) (h : v.getLsbD 0 = b) :
    hostWord true 0 v &&& 0x1FF01 = if b then 0x10001 else 0x10000 := by
  subst h
  revert v
  decide

theorem direction_mask (d : Bool) (a v : Byte) : hostWord d a v &&& 0x10000 = if d then 0x10000 else 0 := by
  apply BitVec.eq_of_getLsbD_eq
  intro i hi
  have hd := hostIsWrite_hostWord d a v
  unfold hostIsWrite at hd
  rw [BitVec.getLsbD_and]
  by_cases h16 : i = 16
  · subst h16
    rw [hd]
    cases d <;> decide
  · have hm : (0x10000 : HostWord).getLsbD i = false := by
      have : ∀ j : Fin 17, j.val ≠ 16 → (0x10000 : HostWord).getLsbD j.val = false := by decide
      exact this ⟨i, hi⟩ h16
    rw [hm]
    cases d
    · simp
    · simpa using hm

theorem hrd (a v : Byte) : Statement (.hrd a v) := by
  intro _
  simp only [Instr.row, TableRow.fits, encode]
  rw [direction_mask]
  rfl

theorem hwr (a v : Byte) : Statement (.hwr a v) := by
  intro _
  simp only [Instr.row, TableRow.fits, encode]
  rw [direction_mask]
  rfl

theorem start (v : Byte) : Statement (.start v) := by
  intro h
  simp only [Instr.row, TableRow.fits, encode]
  rw [ctrl_mask v true h]
  rfl

theorem release (v : Byte) : Statement (.release v) := by
  intro h
  have hv : v.getLsbD 0 = false := by simpa [Instr.wf] using h
  simp only [Instr.row, TableRow.fits, encode]
  rw [ctrl_mask v false hv]
  rfl

theorem chkFrm : Statement .chkFrm := by
  intro _
  decide

theorem genIv : Statement .genIv := by
  intro _
  decide

theorem ldBlk : Statement .ldBlk := by
  intro _
  decide

theorem decr : Statement .decr := by
  intro _
  decide

theorem bmTtg : Statement .bmTtg := by
  intro _
  decide

theorem bmVbat : Statement .bmVbat := by
  intro _
  decide

theorem bmAlarm : Statement .bmAlarm := by
  intro _
  decide

theorem bmAuxSel : Statement .bmAuxSel := by
  intro _
  decide

theorem bmAux0 : Statement .bmAux0 := by
  intro _
  decide

theorem bmAux1 : Statement .bmAux1 := by
  intro _
  decide

theorem bmAux2 : Statement .bmAux2 := by
  intro _
  decide

theorem bmAux3 : Statement .bmAux3 := by
  intro _
  decide

theorem bmIbat : Statement .bmIbat := by
  intro _
  decide

theorem bmCons : Statement .bmCons := by
  intro _
  decide

theorem bmSoc : Statement .bmSoc := by
  intro _
  decide

theorem scState : Statement .scState := by
  intro _
  decide

theorem scErr : Statement .scErr := by
  intro _
  decide

theorem scVbat : Statement .scVbat := by
  intro _
  decide

theorem scIbat : Statement .scIbat := by
  intro _
  decide

theorem scEday : Statement .scEday := by
  intro _
  decide

theorem scPv : Statement .scPv := by
  intro _
  decide

theorem scIload : Statement .scIload := by
  intro _
  decide

theorem almCode : Statement .almCode := by
  intro _
  decide

theorem stCode : Statement .stCode := by
  intro _
  decide

theorem erCode : Statement .erCode := by
  intro _
  decide

theorem rngV : Statement .rngV := by
  intro _
  decide

theorem rngI : Statement .rngI := by
  intro _
  decide

theorem rngE : Statement .rngE := by
  intro _
  decide

theorem rngP : Statement .rngP := by
  intro _
  decide

theorem rngL : Statement .rngL := by
  intro _
  decide

theorem dudSum : Statement .dudSum := by
  intro _
  decide

theorem fin : Statement .fin := by
  intro _
  decide

end Sys2Proof.Laws.RowFitsEncoding
end

