-- ==== Sys2Proof/Tests/Slice0.lean ====
section
/-! SUPPORT. Tests: ill-formed terms refused; words written out from spec/30_encoding.md decoded; one-step tests with the
expected values of spec/95_test_vectors.md; and, for every statement with hypotheses, states that meet them. -/

namespace Sys2Proof.Tests

open Sys2Proof.Machine

/-! ## Helpers -/

/-- The state after holds `p`; a stop does not. -/
def after (r : Result) (p : State → Bool) : Bool :=
  match r with
  | .next t => p t
  | .fault _ => false
  | .refused _ => false

/-- The state after reset with a decrypted block. -/
def withBlock (d : Block) : State := { State.reset with dblk := d }

/-- A block that is zero but for three bytes from `i` on. -/
def threeBytes (i : Fin 14) (a b c : Byte) : Block :=
  ((zeroBlock.set i.val a).set (i.val + 1) b).set (i.val + 2) c

/-- The state after reset with a frame that starts with the three bytes, of the given length. -/
def withFrame (len a b c : Byte) : State :=
  { State.reset with flen := len, frame := ((State.reset.frame.set 0 a).set 1 b).set 2 c }

/-- The bounds of the S rows of 95_test_vectors.md: 2000..3400, -10..400, 1000, 500. -/
def withBounds (s : State) : State :=
  { s with vmin := 2000, vmax := 3400, imin := 0xFFF6, imax := 400, emax := 1000, pmax := 500 }

/-- A state in which the sequencer has a step at a stage. -/
def atCode (code : BitVec 4) (s : State) : State := (s.setReady true).setStage code

/-- A frame done and accepted, not yet released. -/
def doneState : State := { State.reset with ctrl := 0x01, status := 0x03 }

/-- The result register `i` holds `z` and its availability flag is `b`. -/
def shows (i : Fin 8) (z : Int) (b : Bool) (s : State) : Bool := s.x i == z && s.available i == b

/-- The key of K1 (95_test_vectors.md section 2). -/
def keyK1 : Block :=
  #v[0x00, 0x01, 0x02, 0x03, 0x04, 0x05, 0x06, 0x07, 0x08, 0x09, 0x0A, 0x0B, 0x0C, 0x0D, 0x0E, 0x0F]

/-! ## Well-formedness: what the checks refuse (R60, R14) -/

theorem smoke_start_needs_bit_one : Instr.wf (.start 0xFE) = false := by decide

theorem smoke_release_needs_bit_zero : Instr.wf (.release 0x01) = false := by decide

theorem smoke_stage_zero_is_ill_formed : Selector.wf (.sequencer 0b00001 0) = false := by decide

theorem smoke_stage_nine_is_ill_formed : Selector.wf (.sequencer 0b10010 0) = false := by decide

theorem smoke_ill_formed_start_is_not_decoded_back :
    decodeHost (hostWord true 0 0xFE) false false ≠ .start 0xFE := by decide

/-! ## Decoding: words written out from R78 and R81 (HOST words of programs P1 and P2) -/

/-- `1 00000100 00011010`, `0 10010000 00011000`: P1's words 0x1041A and 0x09018. -/
theorem test_decode_host_accesses :
    decodeHost 0b10000010000011010 false false = .hwr 0x04 0x1A ∧
      decodeHost 0b01001000000011000 true true = .hrd 0x90 0x18 := by decide

/-- `1 00000000 vvvvvvv1` with READY = 0, `1 00000000 vvvvvvv0` with READY = DONE = 1; elsewhere a plain HWR (R91). -/
theorem test_decode_ctrl_writes :
    decodeHost 0b10000000011111111 false false = .start 0xFF ∧
      decodeHost 0b10000000011111110 true true = .release 0xFE ∧
      decodeHost 0b10000000000000001 true true = .hwr 0x00 0x01 ∧
      decodeHost 0b10000000000000000 true false = .hwr 0x00 0x00 ∧
      decodeHost 0b10000000000000000 false true = .hwr 0x00 0x00 := by decide

/-- `STAGE[3:0]` then `CFG.LAYOUT`: family frame, decrypt, code tables, range, both values of `l` where the row allows. -/
theorem test_decode_stage_words :
    decode (.sequencer 0b00011 0) = .ok [.chkFrm] ∧ decode (.sequencer 0b00100 0) = .ok [.genIv] ∧
      decode (.sequencer 0b00111 0) = .ok [.ldBlk] ∧ decode (.sequencer 0b01001 0) = .ok [.decr] ∧
      decode (.sequencer 0b01100 0) = .ok [.almCode] ∧ decode (.sequencer 0b01101 0) = .ok [.stCode, .erCode] ∧
      decode (.sequencer 0b01111 0) = .ok [.rngV, .rngI, .rngE, .rngP, .rngL, .dudSum] ∧
      decode (.sequencer 0b01110 0) = .ok [.dudSum] ∧ decode (.sequencer 0b10001 0) = .ok [.fin] := by decide

/-- Stage UNP: the Solar Controller's seven; the Battery Monitor's eight, BM.AUX by block bits 65:64. -/
theorem test_decode_unpack_words :
    decode (.sequencer 0b01011 0) = .ok [.scState, .scErr, .scVbat, .scIbat, .scEday, .scPv, .scIload] ∧
      decode (.sequencer 0b01010 0x10000000000000000) =
        .ok [.bmTtg, .bmVbat, .bmAlarm, .bmAuxSel, .bmAux1, .bmIbat, .bmCons, .bmSoc] ∧
      decode (.sequencer 0b01010 0x30000000000000000) =
        .ok [.bmTtg, .bmVbat, .bmAlarm, .bmAuxSel, .bmAux3, .bmIbat, .bmCons, .bmSoc] := by decide

/-- Table words: three bytes for HOST, one for STAGE, sixteen for a block row that fixes bits. -/
theorem test_table_words :
    decodeTableWord 24 0x10001 = some (.start 0x01) ∧ decodeTableWord 24 0x10000 = some (.release 0x00) ∧
      decodeTableWord 24 0x12345 = some (.hwr 0x23 0x45) ∧ decodeTableWord 24 0x00103 = some (.hrd 0x01 0x03) ∧
      decodeTableWord 8 0x08 = some .decr ∧ decodeTableWord 128 0x20000000000000000 = some .bmAux2 := by decide

/-- Refusals: a code without an operation, a bit above the format, a length no format has. -/
theorem test_decode_refuses_by_name :
    decode (.sequencer 0b00000 0) = .error (.noOperationAtStage 0) ∧
      decode (.sequencer 0b11110 0) = .error (.noOperationAtStage 15) ∧
      decodeBytes [0x20] = .error .bitsAboveFormat ∧ decodeBytes [0, 0, 2] = .error .bitsAboveFormat ∧
      decodeBytes [1, 2] = .error (.noFormatOfThisLength 2) ∧ decodeBytes [] = .error (.noFormatOfThisLength 0) := by
  decide

/-- The very next step runs the word that was placed: FIN, START. -/
theorem test_placed_words_run :
    after (step (State.reset.withFetchWord 8 0x10)) (fun t => t.status == 0x03 && t.stage == 0) ∧
      after (step (State.reset.withFetchWord 24 0x10001)) (fun t => t.ctrl == 0x01 && t.stage == 1) := by decide +kernel

/-! ## The host port (rows H1 to H13) -/

/-- H1: the reset state reads 0. -/
theorem test_hrd_reset : ∀ a ∈ [0x00, 0x01, 0x02, 0x04, 0x80], after (exec (.hrd a 0) State.reset) (·.rdata == 0) := by
  decide

/-- H2, H7: KEY reads 0 whatever it holds; a bound reads back low byte first. -/
theorem test_hrd_key_and_bound :
    after (exec (.hrd 0x10 0) { State.reset with key := keyK1.set 0 0xAA }) (·.rdata == 0) ∧
      after (exec (.hrd 0x71 0) { State.reset with vmin := 2000 }) (·.rdata == 0x07) := by decide

/-- H3, H6: FLEN keeps `v[4:0]`; a reserved address keeps nothing. -/
theorem test_hwr_flen_and_reserved :
    after (exec (.hwr 0x04 0xFA) State.reset) (·.flen == 0x1A) ∧ after (exec (.hwr 0x3A 0x55) State.reset) (· == State.reset) := by
  decide

/-- H5, H8: a read-only register keeps its value; FRAME[25] is written at 0x39. -/
theorem test_hwr_read_only_and_frame :
    after (exec (.hwr 0x60 0x55) State.reset) (· == State.reset) ∧
      after (exec (.hwr 0x39 0x77) State.reset) (·.frame[25] == 0x77) := by decide

/-- H10, H12: START ignores `v[7:1]`; a second start has no effect. -/
theorem test_start :
    after (exec (.start 0xFF) { State.reset with status := 0x0A, almcode := 3 }) (fun t =>
      t.ctrl == 0x01 && t.stage == 1 && t.status == 0 && t.almcode == 0) ∧
      after (exec (.hwr 0x00 0x01) doneState) (· == doneState) := by decide

/-- H13: RELEASE clears READY and DONE only. -/
theorem test_release :
    after (exec (.release 0x00) { State.reset with ctrl := 0x01, status := 0x09, flen := 0x1A }) (fun t =>
      t.ctrl == 0x00 && t.status == 0x08 && t.flen == 0x1A) := by decide

/-- The free read: while the frame is processed STAGE draws a byte and CTRL does not (R47). -/
theorem test_read_while_busy :
    after (exec (.hrd 0x02 0) (atCode 1 State.reset)) (·.draws == 1) ∧
      after (exec (.hrd 0x00 0) (atCode 1 State.reset)) (fun t => t.draws == 0 && t.rdata == 0x01) := by decide

/-! ## The frame operations (rows F1 to F18) -/

/-- F3, F4: length 10 is rejected before the marker is looked at; length 11 is accepted. -/
theorem test_chkfrm_length :
    after (exec .chkFrm (withFrame 10 0 0 0)) (fun t => t.status == 0x04 && t.stage == 8) ∧
      after (exec .chkFrm (withFrame 11 0xE1 0x02 0x10)) (fun t => t.status == 0 && t.stage == 2) := by decide

/-- F6, F8: length 27 is rejected; one wrong marker byte is. -/
theorem test_chkfrm_rejects :
    after (exec .chkFrm (withFrame 27 0xE1 0x02 0x10)) (fun t => t.status == 0x04 && t.stage == 8) ∧
      after (exec .chkFrm (withFrame 26 0xE1 0x02 0x11)) (fun t => t.status == 0x08 && t.stage == 8) := by decide

/-- F14: frame byte 9 is not used. -/
theorem test_geniv :
    after (exec .genIv { State.reset with frame := ((State.reset.frame.set 7 0xFE).set 8 0xFF).set 9 0xFF }) (fun t =>
      t.iv.toList == [0xFE, 0xFF, 0, 0, 0, 0, 0, 0, 0, 0, 0, 0, 0, 0, 0, 0] && t.stage == 3) := by decide

/-- F15, D12: a frame of 12 bytes gives two ciphertext bytes, the rest zero although FRAME holds stale bytes. -/
theorem test_ldblk :
    after (exec .ldBlk { State.reset with flen := 12, frame := Vector.replicate 26 0x5A }) (fun t =>
      t.cblk.toList == [0x5A, 0x5A, 0, 0, 0, 0, 0, 0, 0, 0, 0, 0, 0, 0, 0, 0] && t.stage == 4) := by decide

/-- F4, F8: FIN sets DONE, and ACCEPT only without a cause. -/
theorem test_fin :
    after (exec .fin { State.reset with status := 0x10, stage := 8 }) (fun t => t.status == 0x13 && t.stage == 0) ∧
      after (exec .fin { State.reset with status := 0x08, stage := 8 }) (fun t => t.status == 0x09) := by decide

/-! ## The decryptor (K1, T-DEC-1) -/

/-- K1: a published known answer of AES-128. -/
theorem test_aes_known_answer :
    aes128Encrypt keyK1
        #v[0x00, 0x11, 0x22, 0x33, 0x44, 0x55, 0x66, 0x77, 0x88, 0x99, 0xAA, 0xBB, 0xCC, 0xDD, 0xEE, 0xFF] =
      #v[0x69, 0xC4, 0xE0, 0xD8, 0x6A, 0x7B, 0x04, 0x30, 0xD8, 0xCD, 0xB7, 0x80, 0x70, 0xB4, 0xC5, 0x5A] := by
  decide +kernel

/-- T-DEC-1, the block of program P1. -/
theorem test_decr :
    after (exec .decr
      { State.reset with
        key := keyK1
        iv := (zeroBlock.set 0 0x34).set 1 0x12
        cblk := #v[0xD9, 0x60, 0x43, 0x0E, 0xC2, 0x01, 0xB2, 0xCE, 0xCE, 0x10, 0x64, 0x5A, 0xC9, 0xD1, 0x7B, 0xD3] })
      (fun t => t.stage == 5 && t.dblk ==
        #v[0xF0, 0x00, 0x05, 0x05, 0x04, 0x00, 0xBA, 0x04, 0x60, 0xF0, 0xFF, 0x7B, 0x00, 0xB0, 0x36, 0x00]) := by
  decide +kernel

/-! ## Battery Monitor fields (rows B and W) -/

/-- B8 (W14), B9. -/
theorem test_bmTtg :
    after (exec .bmTtg (withBlock (threeBytes 0 0xFF 0xFF 0))) (fun t => shows 0 65535 true t && t.misc == 0x01) ∧
      after (exec .bmTtg (withBlock (threeBytes 0 0xFE 0xFF 0))) (fun t => shows 0 65534 true t && t.misc == 0) := by decide

/-- B5 (W2 with the sign bit), B7. -/
theorem test_bmVbat :
    after (exec .bmVbat (withBlock (threeBytes 2 0xFF 0xFF 0))) (shows 1 (-1) false) ∧
      after (exec .bmVbat (withBlock (threeBytes 2 0x18 0xFC 0))) (shows 1 (-1000) true) := by decide

/-- B35. -/
theorem test_bmAlarm : after (exec .bmAlarm (withBlock (threeBytes 4 0x00 0xC0 0))) (shows 2 49152 true) := by decide

/-- B13: selector 2; the current's bits above it are not the selector's. -/
theorem test_bmAuxSel :
    after (exec .bmAuxSel (withBlock (threeBytes 8 0xFE 0xFF 0xFF))) (fun t => t.misc == 0x20) := by decide

/-- B15, B10: selector 0 is signed. -/
theorem test_bmAux0 :
    after (exec .bmAux0 (withBlock (threeBytes 6 0x00 0x80 0))) (shows 3 (-32768) true) ∧
      after (exec .bmAux0 (withBlock (threeBytes 6 0xFF 0x7F 0))) (shows 3 32767 false) := by decide

/-- B11, B12: selector 1 is unsigned. -/
theorem test_bmAux1 :
    after (exec .bmAux1 (withBlock (threeBytes 6 0xFF 0x7F 1))) (shows 3 32767 true) ∧
      after (exec .bmAux1 (withBlock (threeBytes 6 0xFF 0xFF 1))) (shows 3 65535 false) := by decide

/-- B14, B13: selector 2 is unsigned. -/
theorem test_bmAux2 :
    after (exec .bmAux2 (withBlock (threeBytes 6 0x00 0x80 2))) (shows 3 32768 true) ∧
      after (exec .bmAux2 (withBlock (threeBytes 6 0xB3 0x72 2))) (shows 3 29363 true) := by decide

/-- B16 (W13). -/
theorem test_bmAux3 : after (exec .bmAux3 (withBlock (threeBytes 6 0x34 0x12 3))) (shows 3 99999 false) := by decide

/-- B20 (W5), B17 (W4). -/
theorem test_bmIbat :
    after (exec .bmIbat (withBlock (threeBytes 8 0x60 0xF0 0xFF))) (shows 4 (-1000) true) ∧
      after (exec .bmIbat (withBlock (threeBytes 8 0xFD 0xFF 0x7F))) (shows 4 2097151 false) := by decide

/-- B24, B23. -/
theorem test_bmCons :
    after (exec .bmCons (withBlock (threeBytes 11 0x00 0x00 0x08))) (shows 5 524288 true) ∧
      after (exec .bmCons (withBlock (threeBytes 11 0xFF 0xFF 0xFF))) (shows 5 1048575 false) := by decide

/-- B26, B28 (W6). -/
theorem test_bmSoc :
    after (exec .bmSoc (withBlock (threeBytes 13 0x80 0x3E 0))) (fun t => shows 6 1000 true t && t.misc == 0) ∧
      after (exec .bmSoc (withBlock (threeBytes 13 0xF0 0x3F 0))) (fun t => shows 6 9999 false t && t.misc == 0x02) := by
  decide

/-! ## Solar Controller fields (rows S) -/

/-- S5. -/
theorem test_scState : after (exec .scState (withBlock (threeBytes 0 0x08 0x09 0))) (shows 0 8 true) := by decide

/-- S5. -/
theorem test_scErr : after (exec .scErr (withBlock (threeBytes 0 0x08 0x09 0))) (shows 1 9 true) := by decide

/-- S10, S11. -/
theorem test_scVbat :
    after (exec .scVbat (withBlock (threeBytes 2 0xFF 0x7F 0))) (shows 2 32767 false) ∧
      after (exec .scVbat (withBlock (threeBytes 2 0x00 0x80 0))) (shows 2 (-32768) true) := by decide

/-- S13, S16. -/
theorem test_scIbat :
    after (exec .scIbat (withBlock (threeBytes 4 0xF5 0xFF 0))) (shows 3 (-11) true) ∧
      after (exec .scIbat (withBlock (threeBytes 4 0xFF 0x7F 0))) (shows 3 32767 false) := by decide

/-- S18, S19. -/
theorem test_scEday :
    after (exec .scEday (withBlock (threeBytes 6 0xE9 0x03 0))) (shows 4 1001 true) ∧
      after (exec .scEday (withBlock (threeBytes 6 0xFF 0xFF 0))) (shows 4 65535 false) := by decide

/-- S21, S22. -/
theorem test_scPv :
    after (exec .scPv (withBlock (threeBytes 8 0xF5 0x01 0))) (shows 5 501 true) ∧
      after (exec .scPv (withBlock (threeBytes 8 0xFF 0xFF 0))) (shows 5 65535 false) := by decide

/-- S25, S23: bit 0 of byte 11 is the ninth bit, bits 7:1 are not read. -/
theorem test_scIload :
    after (exec .scIload (withBlock (threeBytes 10 0xFF 0xFE 0xFF))) (shows 6 255 true) ∧
      after (exec .scIload (withBlock (threeBytes 10 0xFF 0x01 0))) (shows 6 511 false) := by decide

/-! ## Code tables (rows B31 to B36, S4, S5) -/

/-- B31 (W9), B33. -/
theorem test_almCode :
    after (exec .almCode (State.reset.setX 2 3)) (·.almcode == 15) ∧
      after (exec .almCode (State.reset.setX 2 16384)) (·.almcode == 16) := by decide

/-- B32, W8. -/
theorem test_almCode_single_bits :
    after (exec .almCode (State.reset.setX 2 8192)) (·.almcode == 14) ∧
      after (exec .almCode (State.reset.setX 2 4)) (·.almcode == 3) := by decide

/-- S4, S5. -/
theorem test_stCode :
    after (exec .stCode (State.reset.setX 0 7)) (·.misc == 0x04) ∧
      after (exec .stCode (State.reset.setX 0 8)) (·.misc == 0) := by decide

/-- S4, S5. -/
theorem test_erCode :
    after (exec .erCode (State.reset.setX 1 8)) (·.misc == 0x08) ∧
      after (exec .erCode (State.reset.setX 1 9)) (·.misc == 0) := by decide

/-! ## Range classifier (rows S) -/

/-- A Solar Controller reading with every field available. -/
def available (i : Fin 8) (z : Int) : State := withBounds ({ State.reset with avail := 0x7F }.setX i z)

/-- S6, S7: the lower bound is inside. -/
theorem test_rngV :
    after (exec .rngV (available 2 2000)) (·.dudmask == 0) ∧ after (exec .rngV (available 2 1999)) (·.dudmask == 0x04) := by
  decide

/-- S12, S15: a negative lower bound; above the upper one. -/
theorem test_rngI :
    after (exec .rngI (available 3 (-10))) (·.dudmask == 0) ∧ after (exec .rngI (available 3 401)) (·.dudmask == 0x08) := by
  decide

/-- S17, S18. -/
theorem test_rngE :
    after (exec .rngE (available 4 1000)) (·.dudmask == 0) ∧ after (exec .rngE (available 4 1001)) (·.dudmask == 0x10) := by
  decide

/-- S20, S21. -/
theorem test_rngP :
    after (exec .rngP (available 5 500)) (·.dudmask == 0) ∧ after (exec .rngP (available 5 501)) (·.dudmask == 0x20) := by
  decide

/-- S24, S23: a dud only when the load current is expected. -/
theorem test_rngL :
    after (exec .rngL { State.reset with cfg := 0x05, avail := 0x3F }) (·.dudmask == 0x40) ∧
      after (exec .rngL { State.reset with cfg := 0x01, avail := 0x3F }) (·.dudmask == 0) := by decide

/-- S28, S29: five duds, four or five tolerated. -/
theorem test_dudSum :
    after (exec .dudSum { State.reset with cfg := 0x07, ftol := 4, dudmask := 0x7C }) (fun t =>
      t.duds == 5 && t.status == 0x10 && t.stage == 8) ∧
      after (exec .dudSum { State.reset with cfg := 0x07, ftol := 5, dudmask := 0x7C }) (fun t =>
        t.duds == 5 && t.status == 0) := by decide

/-! ## Witnesses: concrete states and operands that meet the hypotheses of each statement -/

/-- A frame of 11 bytes with the right marker, about to start. -/
def acceptedStart : State := { withFrame 11 0xE1 0x02 0x10 with schedule := go }

/-- The same with other unread and stale bytes, and leftovers of an earlier frame. -/
def acceptedStart' : State :=
  { acceptedStart with frame := (acceptedStart.frame.set 3 0x77).set 11 0x55, almcode := 3, status := 0x13 }

/-- A frame with a wrong marker, about to start. -/
def rejectedStart : State := { withFrame 26 0xE1 0x02 0x11 with schedule := go }

theorem witness_ResetInputClearsTheBlockAtAnyTime :
    ({ atCode 4 State.reset with schedule := [.reset, .sequencer] } : State).schedule = .reset :: [.sequencer] := rfl

theorem witness_DecodingAnEncodedInstructionGivesItBack :
    Instr.wf (.start 0x01) = true ∧ Instr.wf (.release 0xFE) = true ∧ Instr.wf (.hwr 0x00 0xFF) = true ∧
      Instr.wf .bmAux3 = true := by decide

theorem witness_DecoderSelectsExactlyTheRowsThatMatch :
    decode (.host 0x10001 true false) = .ok [.hwr 0x00 0x01] ∧ decode (.sequencer 0b01101 0) = .ok [.stCode, .erCode] := by
  decide

/-- Both clauses, at the codes where they meet: 0 and 1, 8 and 9, and 15. -/
theorem witness_OnlyStagesOneToEightDecode :
    Selector.wf (.sequencer 0b00010 0) = true ∧ Selector.wf (.sequencer 0b10000 0) = true ∧
      Selector.wf (.sequencer 0b00000 0) = false ∧ Selector.wf (.sequencer 0b10010 0) = false ∧
      Selector.wf (.sequencer 0b11111 0) = false := by decide

/-- The three clauses: a host turn, the sequencer alone, the sequencer's turn; at the stages where `pc` moves on. -/
theorem witness_StepRunsTheDecodedOperations :
    acceptedStart.schedule = .access (hostWord true 0x00 0x01) :: [] ∧
      (atCode 5 State.reset).busy = true ∧ (atCode 5 State.reset).schedule = [] ∧
      decode (.sequencer (atCode 5 State.reset).stageWord (blockWord (atCode 5 State.reset).dblk)) = .ok (bmOps 0) ∧
      ({ atCode 6 State.reset with schedule := [.sequencer] } : State).busy = true ∧
      decode (.sequencer (atCode 6 State.reset).stageWord (blockWord (atCode 6 State.reset).dblk)) = .ok [.almCode] := by
  decide

theorem witness_IdleSequencerChangesNothing :
    doneState.busy = false ∧ doneState.schedule = [] ∧ State.reset.busy = false ∧
      ({ State.reset with schedule := [.sequencer] } : State).schedule = .sequencer :: [] := by decide

/-- Every clause of the read, at the addresses where the clauses meet, while a frame is processed: reserved and KEY
addresses give 0, per-frame registers draw a byte, the others are exact. -/
theorem witness_HostReadReturnsTheRegisterByte :
    (atCode 1 State.reset).busy = true ∧
      (∀ a ∈ [0x0B, 0x0F, 0x3A, 0x3F, 0x7C, 0x7F, 0xA0, 0xFF, 0x10, 0x1F],
        after (exec (.hrd a 0) (atCode 1 State.reset)) (fun t => t.rdata == 0 && t.draws == 0)) ∧
      ((0x02 : Byte).toNat = 0x02 ∧ (0x06 : Byte).toNat = 0x06) ∧
      (∀ a ∈ [0x01, 0x02, 0x06, 0x0A, 0x40, 0x6F, 0x80, 0x9F],
        after (exec (.hrd a 0) (atCode 1 State.reset)) (fun t => t.draws == 1)) ∧
      (∀ a ∈ [0x00, 0x03, 0x05, 0x20, 0x39, 0x70, 0x7B],
        after (exec (.hrd a 0) (atCode 1 State.reset)) (fun t => t.rdata == State.peek (atCode 1 State.reset) a)) := by
  decide

/-- READV outside the processing window: V4 of program P1, -1000, from the bytes 18 FC FF FF. -/
theorem witness_EveryAddressReadsItsRegister :
    State.reset.busy = false ∧ returnedBytes (readV 4) (State.reset.setX 4 (-1000)) = [0x18, 0xFC, 0xFF, 0xFF] ∧
      readValue 4 (State.reset.setX 4 (-1000)) = -1000 := by decide

/-- Unlocked writes next to CTRL, on both sides of KEY, and at the last address. -/
theorem witness_HostWriteChangesOnlyItsByte :
    State.reset.ready = false ∧ (∀ a ∈ ([0x01, 0x0F, 0x10, 0x1F, 0x20, 0x39, 0x3A, 0xFF] : List Byte), a ≠ 0) ∧
      after (exec (.hwr 0x0F 0x55) State.reset) (fun t => t.key == State.reset.key) ∧
      after (exec (.hwr 0x1F 0x55) State.reset) (fun t => t.key == State.reset.key.set 15 0x55) ∧
      after (exec (.hwr 0x20 0x55) State.reset) (fun t => t.peek 0x20 == 0x55) := by decide

theorem witness_HostWriteStoresInEachRegister : State.reset.ready = false := by decide

theorem witness_WritingTwiceIsWritingOnce : (0x70 : Byte) ≠ 0 ∧ (0x01 : Byte) ≠ 0 := by decide

theorem witness_WriteIsDroppedWhileReady : doneState.ready = true ∧ (0x04 : Byte) ≠ 0 := by decide

theorem witness_StartClearsThePerFrameState : (0xFF : Byte).getLsbD 0 = true ∧ State.reset.ready = false := by decide

/-- RELEASE, and the three writes without effect: a second start, a zero while idle, a zero in flight. -/
theorem witness_ReleaseClearsReadyAndDone :
    ((0xFE : Byte).getLsbD 0 = false ∧ doneState.ready = true ∧ doneState.done = true) ∧
      ((0x01 : Byte).getLsbD 0 = true ∧ doneState.ready = true) ∧
      ((0xFE : Byte).getLsbD 0 = false ∧ State.reset.ready = false) ∧
      ((0x00 : Byte).getLsbD 0 = false ∧ (atCode 1 State.reset).ready = true ∧ (atCode 1 State.reset).done = false) := by
  decide

theorem witness_NoAccessDisturbsAFrameInFlight : (atCode 4 State.reset).busy = true := by decide

theorem witness_SetBoundStoresTheValue : State.reset.ready = false := by decide

/-- Both clauses where they meet: a frame of one byte, and one that fills FRAME. -/
theorem witness_LoadFrameStoresTheFrame :
    State.reset.ready = false ∧ [(0xE1 : Byte)].length ≤ 26 ∧ (List.replicate 26 (0xE1 : Byte)).length ≤ 26 ∧
      after (runTurns (loadFrame [0xE1]) State.reset) (fun t => t.flen == 1 && t.frame[0] == 0xE1 && t.frame[1] == 0) := by
  decide

/-- Each clause of CHKFRM at its boundary lengths. -/
theorem witness_ChkfrmAcceptsOrRejects :
    lengthOf (withFrame 10 0xE1 0x02 0x10) = 10 ∧ lengthOf (withFrame 11 0xE1 0x02 0x10) = 11 ∧
      lengthOf (withFrame 26 0xE1 0x02 0x10) = 26 ∧ lengthOf (withFrame 27 0xE1 0x02 0x10) = 27 ∧
      (withFrame 26 0xE1 0x02 0x11).frame[2] ≠ 0x10 := by decide

/-- Both clauses of LDBLK where they meet: in a frame of 11 bytes byte 10 is there and byte 11 is not. -/
theorem witness_LdblkCopiesAndZeroFills :
    lengthOf (withFrame 11 0xE1 0x02 0x10) = 11 ∧
      after (exec .ldBlk { withFrame 11 0 0 0 with frame := Vector.replicate 26 0x5A }) (fun t =>
        t.cblk[0] == 0x5A && t.cblk[1] == 0) := by decide

theorem witness_SboxIsTheAffineImageOfTheInverse : (0x01 : Byte) ≠ 0 ∧ gfMul 0x53 0xCA = 1 ∧ gfMul 0x01 0x01 = 1 := by
  decide +kernel

/-- The recurrence at its first word, at a word that is no multiple of 4, and at its last one (the round keys of K1). -/
theorem witness_KeyScheduleFollowsItsRecurrence :
    4 ≤ 4 ∧ 43 ≤ 43 ∧ scheduleByte keyK1 4 0 = 0xD6 ∧ scheduleByte keyK1 5 0 = 0xD2 ∧ scheduleByte keyK1 43 3 = 0xC5 := by
  decide +kernel

/-- A field that ends with the block, inside it and at the bit after it. -/
theorem witness_ExtractTakesTheBitsOfTheField :
    120 + 8 ≤ 128 ∧ (7 < 8) ∧ ¬(8 < 8) ∧ extract (zeroBlock.set 15 0x81) 120 8 = 0x81 := by decide

theorem witness_TwosComplementIsSignExtension :
    1 ≤ 1 ∧ 32 ≤ 32 ∧ tc 1 1 = -1 ∧ tc 32 0x80000000 = -2147483648 ∧ tc 22 0x3FFC18 = -1000 := by decide

/-- Every clause of ALMCODE at its boundary masks. -/
theorem witness_AlmcodeCodesEveryMask :
    (State.reset.setX 2 0).v[2].toNat = 0 ∧ (State.reset.setX 2 1).v[2].toNat = 2 ^ 0 ∧
      (State.reset.setX 2 8192).v[2].toNat = 2 ^ 13 ∧ (State.reset.setX 2 16384).v[2].toNat = 2 ^ 14 ∧
      (State.reset.setX 2 32768).v[2].toNat = 2 ^ 15 ∧ (State.reset.setX 2 65535).v[2].toNat < 65536 ∧
      (State.reset.setX 2 49152).v[2].getLsbD 14 = true ∧ (State.reset.setX 2 49152).v[2].getLsbD 15 = true ∧
      14 < 15 := by decide

theorem witness_StcodeAndErcodeRecogniseNamedValues :
    (State.reset.setX 0 0).x 0 = 0 ∧ (State.reset.setX 0 255).x 0 = 255 ∧ (State.reset.setX 1 8).x 1 = 8 ∧
      (State.reset.setX 1 9).x 1 = 9 := by decide

theorem witness_DudsumCountsAndSuppresses :
    ({ State.reset with dudmask := 0x7C } : State).dudmask &&& 0x83 = 0 ∧ State.reset.dudmask &&& 0x83 = 0 := by decide

theorem witness_EveryStepKeepsReservedBitsZero :
    ReservedZero { atCode 1 State.reset with cfg := 0x07 } ∧
      after (step { atCode 1 State.reset with cfg := 0x07 }) (fun t => t.status == 0x04) = true := by decide

theorem witness_TheMachineNeverStops :
    SequencerOk (atCode 1 State.reset) ∧ SequencerOk (atCode 8 State.reset) ∧ SequencerOk doneState := by decide

theorem witness_EveryStepKeepsTheInvariant :
    Invariant (atCode 1 State.reset) ∧ after (step (atCode 1 State.reset)) (fun t => t.stage == 8) = true :=
  ⟨⟨by decide, by decide, by decide, by decide, by decide, by decide, ⟨by decide, by decide, by decide⟩, by decide,
    by decide, by decide, by decide, by decide⟩, by decide⟩

/-- Each clause: CHK of a good and of a bad frame, a stage on the line, FIN. -/
theorem witness_StagesFollowTheTable :
    (atCode 1 acceptedStart).busy = true ∧ FrameAccepted (atCode 1 acceptedStart) ∧
      ¬FrameAccepted (atCode 1 rejectedStart) ∧ (atCode 7 State.reset).busy = true ∧
      (atCode 7 State.reset).stage.toNat ≤ 8 ∧ (atCode 7 State.reset).stage ≠ 0 ∧ (atCode 7 State.reset).schedule = [] ∧
      (atCode 8 State.reset).busy = true ∧ (atCode 8 State.reset).stage.toNat ≤ 8 := by decide

theorem witness_EveryFrameIsDoneWithinEightSteps :
    SequencerOk (atCode 1 State.reset) ∧ (atCode 1 State.reset).busy = true ∧ (atCode 1 State.reset).schedule = [] ∧
      SequencerOk (atCode 8 State.reset) ∧ (atCode 8 State.reset).busy = true ∧ 8 ≤ [1, 1, 1, 1, 1, 1, 1, 2].length ∧
      (∀ g ∈ [1, 1, 1, 1, 1, 1, 1, 2], 1 ≤ g) := by decide

/-- WAITDONE ends at the first poll that finds DONE: P1's `HRD 0x01 -> 0x03`. -/
theorem test_waitDone_stops_when_done : after (waitDone [1, 1] doneState) (fun t => t.rdata == 0x03) := by decide

/-- A wrong marker at a good length, and a wrong length. -/
theorem witness_RejectedFrameLeavesNoReading :
    rejectedStart.ready = false ∧ rejectedStart.schedule = go ∧ ¬FrameAccepted rejectedStart ∧ lengthOf rejectedStart = 26 ∧
      ¬FrameAccepted { rejectedStart with flen := 10 } ∧ lengthOf { rejectedStart with flen := 10 } = 10 := by decide

theorem witness_AcceptedFrameGivesItsReading :
    acceptedStart.ready = false ∧ acceptedStart.schedule = go ∧ FrameAccepted acceptedStart := by decide

theorem witness_UnreadAndStaleBytesReachNoResult :
    acceptedStart.ready = false ∧ acceptedStart'.ready = false ∧ acceptedStart.schedule = go ∧
      acceptedStart'.schedule = go ∧ acceptedStart'.cfg = acceptedStart.cfg ∧ acceptedStart'.flen = acceptedStart.flen ∧
      acceptedStart'.ftol = acceptedStart.ftol ∧ acceptedStart'.key = acceptedStart.key ∧
      (∀ i : Fin 26, frameByteRead (lengthOf acceptedStart) i.val = true →
        acceptedStart'.frame[i] = acceptedStart.frame[i]) ∧ acceptedStart'.frame ≠ acceptedStart.frame := by decide

theorem witness_UnreadAndStaleBytesReachNoResult_bounds (b : Bound) : acceptedStart'.bound b = acceptedStart.bound b := by
  cases b <;> rfl

theorem witness_InterleavingChangesNoRegister :
    SequencerOk (atCode 1 acceptedStart) ∧ (atCode 1 acceptedStart).busy = true ∧
      (∀ x ∈ [turnWrite 0x04 0x0B, .sequencer, turnRead 0x02], x ≠ Turn.reset) ∧
      after (runTurns ([turnWrite 0x04 0x0B, .sequencer, turnRead 0x02].filter fun x => x == .sequencer)
        (atCode 1 acceptedStart)) (·.busy) = true := by decide

end Sys2Proof.Tests
end

section
/-! PROOFS of the family 00_scope.md: the block as a little-endian integer, bit extraction and two's-complement decoding
(R8). -/

namespace Sys2Proof.Machine

/-! ## The block as an integer -/

/-- `int(D)` is the value of the block's bytes as base-256 digits, byte 0 least significant (R8). -/
theorem blockInt_eq_ofDigits (d : Block) :
    blockInt d = Nat.ofDigits 256 (List.ofFn fun i : Fin 16 => d[i].toNat) := by
  simp only [List.ofFn_succ, List.ofFn_zero, Nat.ofDigits_cons, Nat.ofDigits_nil, Fin.getElem_fin, Fin.val_succ,
    Fin.val_zero, Nat.reduceAdd, blockInt]
  omega

/-- Digit `i` of a number given by its base-`b` digits. -/
theorem ofDigits_div_pow_mod {b : Nat} {l : List Nat} (hl : ∀ x ∈ l, x < b) {i : Nat} (hi : i < l.length) :
    Nat.ofDigits b l / b ^ i % b = l[i] := by
  have hlt : l[i] < b := hl _ (List.getElem_mem hi)
  rw [Nat.ofDigits_div_pow_eq_ofDigits_drop i (by omega) l hl, List.drop_eq_getElem_cons hi, Nat.ofDigits_cons,
    Nat.add_mul_mod_self_left, Nat.mod_eq_of_lt hlt]

/-- Byte `i` of `int(D)` is `D[i]`. -/
theorem blockInt_byte (d : Block) {i : Nat} (hi : i < 16) : blockInt d / 2 ^ (8 * i) % 2 ^ 8 = d[i].toNat := by
  have hbytes : ∀ x ∈ List.ofFn fun i : Fin 16 => d[i].toNat, x < 256 :=
    List.forall_mem_ofFn_iff.mpr fun i => d[i].isLt
  have hdigit := ofDigits_div_pow_mod hbytes (i := i) (by rwa [List.length_ofFn])
  rw [← blockInt_eq_ofDigits, List.getElem_ofFn] at hdigit
  rw [pow_mul]
  exact hdigit

/-- Bit `k` of `int(D)` is block bit `k`: bit `k mod 8` of byte `k div 8` (R8). -/
theorem testBit_blockInt (d : Block) (k : Fin 128) : (blockInt d).testBit k.val = blockBit d k := by
  have hr : k.val % 8 < 8 := Nat.mod_lt _ (by decide)
  calc (blockInt d).testBit k.val
      = (blockInt d).testBit (k.val % 8 + 8 * (k.val / 8)) := by rw [Nat.mod_add_div]
    _ = (blockInt d / 2 ^ (8 * (k.val / 8)) % 2 ^ 8).testBit (k.val % 8) := by
        rw [Nat.testBit_mod_two_pow, Nat.testBit_div_two_pow, decide_eq_true hr, Bool.true_and]
    _ = (d[k.val / 8]'(by omega)).getLsbD (k.val % 8) := by
        rw [blockInt_byte d (by omega), BitVec.testBit_toNat]
    _ = blockBit d k := rfl

/-- The shift of `extract` moves bit `off + j` to place `j`, and its remainder cuts at `w`. -/
theorem testBit_extract (d : Block) (off w j : Nat) :
    (extract d off w).testBit j = (decide (j < w) && (blockInt d).testBit (off + j)) := by
  rw [extract, Nat.testBit_mod_two_pow, Nat.testBit_shiftRight]

/-! ## Two's-complement decoding -/

/-- `tc_w` of a pattern's unsigned value is its signed value: the threshold `2^(w-1)` is where twice the value reaches
`2^w`. -/
theorem tc_toNat {w : Nat} (hw : 1 ≤ w) (r : BitVec w) : tc w r.toNat = r.toInt := by
  have htwice : 2 * 2 ^ (w - 1) = 2 ^ w := by rw [← pow_succ', Nat.sub_add_cancel hw]
  rw [BitVec.toInt_eq_toNat_cond, tc, Nat.cast_pow, Nat.cast_ofNat]
  by_cases hsign : 2 ^ (w - 1) ≤ r.toNat
  · rw [if_pos hsign, if_neg (by omega)]
  · rw [if_neg hsign, if_pos (by omega)]

end Sys2Proof.Machine

namespace Sys2Proof.Proofs

open Sys2Proof.Machine

/-- Settles O32: below `w` a bit of the extract is a bit of `int(D)`, which is the block bit; from `w` on the remainder has
no bits. -/
theorem extractTakesTheBitsOfTheField : Obligations.ExtractTakesTheBitsOfTheField := by
  intro d off w j h
  rw [testBit_extract]
  split
  case isTrue hj => rw [decide_eq_true hj, Bool.true_and, ← testBit_blockInt]
  case isFalse hj => rw [decide_eq_false hj, Bool.false_and]

/-- Settles O33: `tc_w` is the signed value, and sign extension to 32 bits is by definition the pattern of that value. -/
theorem twosComplementIsSignExtension : Obligations.TwosComplementIsSignExtension := by
  intro w r hw _
  have htc := tc_toNat hw r
  exact ⟨htc, by rw [htc, BitVec.signExtend]⟩

end Sys2Proof.Proofs
end

section
/-! PROOFS of the family 10_state.md: what reset leaves, which stage codes decode, that no read shows KEY, and the
invariant of the whole machine. -/

namespace Sys2Proof

/-! ## Decoding a stage word (R14, R94) -/

/-- The codes 1 to 8 select operations. -/
theorem decodeStage_of_code (w : StageWord) (b : BlockWord) (h1 : 1 ≤ (stageCode w).toNat)
    (h8 : (stageCode w).toNat ≤ 8) : ∃ ops, decodeStage w b = .ok ops := by
  unfold decodeStage
  interval_cases (stageCode w).toNat <;> exact ⟨_, rfl⟩

/-- Every other code is refused by name. -/
theorem decodeStage_of_no_code (w : StageWord) (b : BlockWord)
    (h : (stageCode w).toNat = 0 ∨ 9 ≤ (stageCode w).toNat) :
    decodeStage w b = .error (.noOperationAtStage (stageCode w)) := by
  unfold decodeStage
  split
  case h_9 => rfl
  all_goals omega

end Sys2Proof

namespace Sys2Proof.Machine

/-! ## Bits of a register under a mask -/

/-- Writing a bit outside a mask keeps the masked bits zero. -/
theorem putBit_and_eq_zero {n : Nat} {r m : BitVec n} {i : Nat} (b : Bool) (hr : r &&& m = 0)
    (hm : m.getLsbD i = false) : putBit r i b &&& m = 0 := by
  apply BitVec.eq_of_getLsbD_eq
  intro j hj
  have hrj : (r &&& m).getLsbD j = false := by simp [hr]
  rw [BitVec.getLsbD_and] at hrj
  rw [BitVec.getLsbD_and, putBit_getLsbD]
  by_cases hij : j = i
  · simp [hij, hm]
  · simpa [hij] using hrj

theorem putPair_and_eq_zero {n : Nat} {r m : BitVec n} {i : Nat} (v : BitVec 2) (hr : r &&& m = 0)
    (hm : m.getLsbD i = false) (hm' : m.getLsbD (i + 1) = false) : putPair r i v &&& m = 0 :=
  putBit_and_eq_zero _ (putBit_and_eq_zero _ hr hm) hm'

/-- A byte cut to a field has no bit outside it. -/
theorem and_and_eq_zero {n : Nat} (v : BitVec n) {k m : BitVec n} (h : k &&& m = 0) : v &&& k &&& m = 0 := by
  rw [BitVec.and_assoc, h]
  exact BitVec.and_zero

/-! ## The bits of STATUS, each left alone by the writes to the others (R21) -/

@[simp] theorem State.setDone_accept (s : State) (b : Bool) : (s.setDone b).accept = s.accept := by
  simp [State.accept]

@[simp] theorem State.setDone_suppress (s : State) (b : Bool) : (s.setDone b).suppress = s.suppress := by
  simp [State.suppress]

@[simp] theorem State.setAccept_suppress (s : State) (b : Bool) : (s.setAccept b).suppress = s.suppress := by
  simp [State.suppress]

@[simp] theorem State.setSuppress_accept (s : State) (b : Bool) : (s.setSuppress b).accept = s.accept := by
  simp [State.accept]

@[simp] theorem State.setRej_accept (s : State) (c : BitVec 2) : (s.setRej c).accept = s.accept := by
  simp [State.accept]

@[simp] theorem State.setRej_suppress (s : State) (c : BitVec 2) : (s.setRej c).suppress = s.suppress := by
  simp [State.suppress]

theorem putBit_extract_rej (r : Byte) {i : Nat} (b : Bool) (h : i < 2 ∨ 3 < i) :
    (putBit r i b).extractLsb' 2 2 = r.extractLsb' 2 2 := by
  apply BitVec.eq_of_getLsbD_eq
  intro j hj
  simp only [BitVec.getLsbD_extractLsb']
  rw [putBit_getLsbD_ne _ _ (by omega)]

@[simp] theorem State.setDone_rej (s : State) (b : Bool) : (s.setDone b).rej = s.rej :=
  putBit_extract_rej s.status b (by decide)

@[simp] theorem State.setAccept_rej (s : State) (b : Bool) : (s.setAccept b).rej = s.rej :=
  putBit_extract_rej s.status b (by decide)

@[simp] theorem State.setSuppress_rej (s : State) (b : Bool) : (s.setSuppress b).rej = s.rej :=
  putBit_extract_rej s.status b (by decide)

@[simp] theorem State.setRej_rej (s : State) (c : BitVec 2) : (s.setRej c).rej = c := by
  apply BitVec.eq_of_getLsbD_eq
  intro j hj
  have hj01 : j = 0 ∨ j = 1 := by omega
  simp only [State.rej, State.setRej_status, BitVec.getLsbD_extractLsb', putPair_getLsbD]
  rcases hj01 with rfl | rfl <;> simp

theorem State.busy_iff (s : State) : s.busy = true ↔ s.ready = true ∧ s.done = false := by
  simp [State.busy]

@[simp] theorem State.setSuppress_busy (s : State) (b : Bool) : (s.setSuppress b).busy = s.busy := by
  simp [State.busy]

@[simp] theorem State.setRej_busy (s : State) (c : BitVec 2) : (s.setRej c).busy = s.busy := by
  simp [State.busy]

/-! ## Counts and dud flags -/

/-- The five flags of DUDMASK[6:2] are counted in three bits (R16, R17). -/
theorem toNat_duds (r : Byte) (h : r &&& 0x83 = 0) : (BitVec.ofNat 3 (popcount r)).toNat = popcount r := by
  revert r
  decide

theorem alarmCode_le (a : Word32) : (alarmCode a).toNat ≤ 16 := by
  unfold alarmCode
  split
  · decide
  · split
    · decide
    · split
      · rw [BitVec.toNat_ofNat]; omega
      · decide

@[simp] theorem zeroBlock_getElem (i : Fin 16) : zeroBlock[i] = 0 := Vector.getElem_replicate i.isLt

/-- Past its first two bytes the IV of a frame is zero (R63). -/
theorem ivOf_getElem (frame : FrameBytes) (i : Fin 16) (h : 2 ≤ i.val) : (ivOf frame)[i] = 0 := by
  obtain ⟨n, hn⟩ := i
  replace h : 2 ≤ n := h
  interval_cases n <;> rfl

/-! ## The range of a count, by layout and result register (R13) -/

/-- The counts result register `i` can hold in the Battery Monitor (`false`) or Solar Controller (`true`) layout. -/
def CountRange (layout : Bool) (i : Fin 8) (z : Int) : Prop :=
  match layout, i.val with
  | false, 0 => 0 ≤ z ∧ z ≤ 65535
  | false, 1 => -32768 ≤ z ∧ z ≤ 32767
  | false, 2 => 0 ≤ z ∧ z ≤ 65535
  | false, 3 => (-32768 ≤ z ∧ z ≤ 65535) ∨ z = 99999
  | false, 4 => -2097152 ≤ z ∧ z ≤ 2097151
  | false, 5 => 0 ≤ z ∧ z ≤ 1048575
  | false, 6 => (0 ≤ z ∧ z ≤ 1000) ∨ z = 9999
  | true, 0 => 0 ≤ z ∧ z ≤ 255
  | true, 1 => 0 ≤ z ∧ z ≤ 255
  | true, 2 => -32768 ≤ z ∧ z ≤ 32767
  | true, 3 => -32768 ≤ z ∧ z ≤ 32767
  | true, 4 => 0 ≤ z ∧ z ≤ 65535
  | true, 5 => 0 ≤ z ∧ z ≤ 65535
  | true, 6 => 0 ≤ z ∧ z ≤ 511
  | _, _ => z = 0

/-- Every result register is in its range in the layout. -/
def RangesOf (layout : Bool) (s : State) : Prop := ∀ i : Fin 8, CountRange layout i (s.x i)

theorem rangesOf_false_iff (s : State) : RangesOf false s ↔ BmRanges s := by
  constructor
  · intro h
    exact ⟨h 0, h 1, h 2, h 3, h 4, h 5, h 6, h 7⟩
  · rintro ⟨h0, h1, h2, h3, h4, h5, h6, h7⟩ i
    fin_cases i <;> assumption

theorem rangesOf_true_iff (s : State) : RangesOf true s ↔ ScRanges s := by
  constructor
  · intro h
    exact ⟨h 0, h 1, h 2, h 3, h 4, h 5, h 6, h 7⟩
  · rintro ⟨h0, h1, h2, h3, h4, h5, h6, h7⟩ i
    fin_cases i <;> assumption

theorem countRange_zero (layout : Bool) (i : Fin 8) : CountRange layout i 0 := by
  cases layout <;> fin_cases i <;> simp [CountRange]

/-- Every count fits a result register. -/
theorem CountRange.int32 {layout : Bool} {i : Fin 8} {z : Int} (h : CountRange layout i z) :
    -2147483648 ≤ z ∧ z < 2147483648 := by
  cases layout <;> fin_cases i <;> simp only [CountRange] at h <;> omega

/-- Storing a count in range keeps all counts in range. -/
theorem RangesOf.setX {layout : Bool} {s : State} {i : Fin 8} {z : Int} (h : RangesOf layout s)
    (hz : CountRange layout i z) : RangesOf layout (s.setX i z) := by
  obtain ⟨lo, hi⟩ := hz.int32
  intro j
  by_cases hj : j = i
  · subst hj
    rwa [State.setX_x s j lo hi]
  · rw [State.setX_x_ne s z hj]
    exact h j

/-- While READY = 1 the counts are in range exactly when they are for the layout held. -/
theorem countsOk_iff_of_ready {s : State} (hr : s.ready = true) : CountsOk s ↔ RangesOf s.layout s := by
  cases hl : s.layout with
  | false =>
    rw [rangesOf_false_iff]
    exact ⟨fun ⟨_, hbm, _⟩ => hbm hr hl, fun h => ⟨Or.inl h, fun _ _ => h, fun _ h' => by simp [hl] at h'⟩⟩
  | true =>
    rw [rangesOf_true_iff]
    exact ⟨fun ⟨_, _, hsc⟩ => hsc hr hl, fun h => ⟨Or.inr h, fun _ h' => by simp [hl] at h', fun _ _ => h⟩⟩

/-! ## Operations of stage UNP (R100) -/

/-- What operations of stage UNP do together: they write V0..V6 and their flags and MISC, keep MISC's reserved bits, and
keep the counts in the ranges of their layout. -/
structure Unpacking (layout : Bool) (s t : State) : Prop where
  frame : ∃ v avail misc, t = { s with v := v, avail := avail, misc := misc }
  v7 : t.v[7] = s.v[7]
  avail7 : t.available 7 = s.available 7
  misc : s.misc &&& 0xC0 = 0 → t.misc &&& 0xC0 = 0
  ranges : RangesOf layout s → RangesOf layout t

theorem Unpacking.refl (layout : Bool) (s : State) : Unpacking layout s s :=
  ⟨⟨_, _, _, rfl⟩, rfl, rfl, id, id⟩

theorem Unpacking.trans {layout : Bool} {s t u : State} (h : Unpacking layout s t) (h' : Unpacking layout t u) :
    Unpacking layout s u := by
  refine ⟨?_, h'.v7.trans h.v7, h'.avail7.trans h.avail7, h'.misc ∘ h.misc, h'.ranges ∘ h.ranges⟩
  obtain ⟨_, _, _, rfl⟩ := h.frame
  obtain ⟨v, avail, misc, rfl⟩ := h'.frame
  exact ⟨v, avail, misc, rfl⟩

/-- Storing a count in range and its flag. -/
theorem unpacking_count {layout : Bool} (s : State) {i : Fin 8} {z : Int} (b : Bool) (hi : i ≠ 7)
    (hz : CountRange layout i z) : Unpacking layout s ((s.setX i z).setAvail i b) where
  frame := ⟨_, _, _, rfl⟩
  v7 := Vector.getElem_set_ne i.isLt (by decide) fun e => hi (Fin.ext e)
  avail7 := by rw [State.setAvail_available, if_neg hi.symm, State.setX_available]
  misc := id
  ranges h := h.setX hz

/-- Writing a flag of MISC. -/
theorem unpacking_misc (layout : Bool) (s : State) {i : Nat} (b : Bool) (hi : (0xC0 : Byte).getLsbD i = false) :
    Unpacking layout s { s with misc := putBit s.misc i b } :=
  ⟨⟨_, _, _, rfl⟩, rfl, rfl, fun h => putBit_and_eq_zero b h hi, id⟩

theorem FieldSpec.raw_lt (f : FieldSpec) (d : Block) : f.raw d < 2 ^ f.w := extract_lt d f.off f.w

/-- A field read as its raw value: plain or unsigned, whatever its flag. -/
theorem unpacking_raw {layout : Bool} (f : FieldSpec) (s : State) (b : Bool) (hi : f.reg ≠ 7)
    (hz : ∀ n : Nat, n < 2 ^ f.w → CountRange layout f.reg n) :
    Unpacking layout s ((s.setX f.reg (f.raw s.dblk)).setAvail f.reg b) :=
  unpacking_count s b hi (hz _ (f.raw_lt s.dblk))

/-- A field read as two's complement. -/
theorem unpacking_signed {layout : Bool} (f : FieldSpec) (s : State) (hi : f.reg ≠ 7) (hw : 1 ≤ f.w)
    (hz : ∀ z : Int, -2 ^ (f.w - 1) ≤ z → z < 2 ^ (f.w - 1) → CountRange layout f.reg z) :
    Unpacking layout s (unpackSigned f s) := by
  obtain ⟨lo, hi'⟩ := tc_range hw (f.raw_lt s.dblk)
  exact unpacking_count s _ hi (hz _ lo hi')

/-- The instruction is one that unpacks a field of the layout. -/
def Unpacks (layout : Bool) (i : Instr) : Prop := ∀ s, ∃ t, exec i s = .next t ∧ Unpacking layout s t

theorem unpacks_bmTtg : Unpacks false .bmTtg := fun s =>
  ⟨_, rfl, .trans (unpacking_raw fieldBmTtg s true (by decide) fun n (hn : n < 65536) =>
    show 0 ≤ (n : Int) ∧ (n : Int) ≤ 65535 by omega) (unpacking_misc _ _ _ (by decide))⟩

theorem unpacks_bmVbat : Unpacks false .bmVbat := fun s =>
  ⟨_, rfl, unpacking_signed fieldBmVbat s (by decide) (by decide) fun z (lo : -32768 ≤ z) (hi : z < 32768) =>
    show -32768 ≤ z ∧ z ≤ 32767 by omega⟩

theorem unpacks_bmAlarm : Unpacks false .bmAlarm := fun s =>
  ⟨_, rfl, unpacking_raw fieldBmAlarm s true (by decide) fun n (hn : n < 65536) =>
    show 0 ≤ (n : Int) ∧ (n : Int) ≤ 65535 by omega⟩

theorem unpacks_bmAuxSel : Unpacks false .bmAuxSel := fun s =>
  ⟨_, rfl, (unpacking_misc _ s _ (by decide)).trans (unpacking_misc _ _ _ (by decide))⟩

/-- Every sub-form of BM.AUX (R135). -/
theorem unpacks_auxForm (n : BitVec 2) : Unpacks false (auxForm n) := by
  unfold auxForm
  split
  · exact fun s => ⟨_, rfl, unpacking_signed fieldBmAuxVolt s (by decide) (by decide)
      fun z (lo : -32768 ≤ z) (hi : z < 32768) => show (-32768 ≤ z ∧ z ≤ 65535) ∨ z = 99999 by omega⟩
  · exact fun s => ⟨_, rfl, unpacking_raw fieldBmAuxVolt s _ (by decide) fun n (hn : n < 65536) =>
      show (-32768 ≤ (n : Int) ∧ (n : Int) ≤ 65535) ∨ (n : Int) = 99999 by omega⟩
  · exact fun s => ⟨_, rfl, unpacking_raw fieldBmAuxKelvin s _ (by decide) fun n (hn : n < 65536) =>
      show (-32768 ≤ (n : Int) ∧ (n : Int) ≤ 65535) ∨ (n : Int) = 99999 by omega⟩
  · exact fun s => ⟨_, rfl, unpacking_count s false (by decide) (Or.inr rfl)⟩

theorem unpacks_bmIbat : Unpacks false .bmIbat := fun s =>
  ⟨_, rfl, unpacking_signed fieldBmIbat s (by decide) (by decide) fun z (lo : -2097152 ≤ z) (hi : z < 2097152) =>
    show -2097152 ≤ z ∧ z ≤ 2097151 by omega⟩

theorem unpacks_bmCons : Unpacks false .bmCons := fun s =>
  ⟨_, rfl, unpacking_raw fieldBmCons s _ (by decide) fun n (hn : n < 1048576) =>
    show 0 ≤ (n : Int) ∧ (n : Int) ≤ 1048575 by omega⟩

/-- The clamp of the state of charge leaves 0..1000 or the out-of-range value (R138). -/
theorem socCount_range (raw : Nat) : CountRange false 6 (socCount raw) := by
  show (0 ≤ (socCount raw : Int) ∧ (socCount raw : Int) ≤ 1000) ∨ (socCount raw : Int) = 9999
  unfold socCount
  split <;> omega

theorem unpacks_bmSoc : Unpacks false .bmSoc := fun s =>
  ⟨_, rfl, (unpacking_count s _ (by decide) (socCount_range _)).trans (unpacking_misc _ _ _ (by decide))⟩

theorem unpacks_bmOps (b : BlockWord) : ∀ i ∈ bmOps b, Unpacks false i := by
  simp only [bmOps, List.forall_mem_cons]
  exact ⟨unpacks_bmTtg, unpacks_bmVbat, unpacks_bmAlarm, unpacks_bmAuxSel, unpacks_auxForm _, unpacks_bmIbat,
    unpacks_bmCons, unpacks_bmSoc, by simp⟩

theorem unpacks_scState : Unpacks true .scState := fun s =>
  ⟨_, rfl, unpacking_raw fieldScState s true (by decide) fun n (hn : n < 256) =>
    show 0 ≤ (n : Int) ∧ (n : Int) ≤ 255 by omega⟩

theorem unpacks_scErr : Unpacks true .scErr := fun s =>
  ⟨_, rfl, unpacking_raw fieldScErr s true (by decide) fun n (hn : n < 256) =>
    show 0 ≤ (n : Int) ∧ (n : Int) ≤ 255 by omega⟩

theorem unpacks_scVbat : Unpacks true .scVbat := fun s =>
  ⟨_, rfl, unpacking_signed fieldScVbat s (by decide) (by decide) fun z (lo : -32768 ≤ z) (hi : z < 32768) =>
    show -32768 ≤ z ∧ z ≤ 32767 by omega⟩

theorem unpacks_scIbat : Unpacks true .scIbat := fun s =>
  ⟨_, rfl, unpacking_signed fieldScIbat s (by decide) (by decide) fun z (lo : -32768 ≤ z) (hi : z < 32768) =>
    show -32768 ≤ z ∧ z ≤ 32767 by omega⟩

theorem unpacks_scEday : Unpacks true .scEday := fun s =>
  ⟨_, rfl, unpacking_raw fieldScEday s _ (by decide) fun n (hn : n < 65536) =>
    show 0 ≤ (n : Int) ∧ (n : Int) ≤ 65535 by omega⟩

theorem unpacks_scPv : Unpacks true .scPv := fun s =>
  ⟨_, rfl, unpacking_raw fieldScPv s _ (by decide) fun n (hn : n < 65536) =>
    show 0 ≤ (n : Int) ∧ (n : Int) ≤ 65535 by omega⟩

theorem unpacks_scIload : Unpacks true .scIload := fun s =>
  ⟨_, rfl, unpacking_raw fieldScIload s _ (by decide) fun n (hn : n < 512) =>
    show 0 ≤ (n : Int) ∧ (n : Int) ≤ 511 by omega⟩

theorem unpacks_scOps : ∀ i ∈ scOps, Unpacks true i := by
  simp only [scOps, List.forall_mem_cons]
  exact ⟨unpacks_scState, unpacks_scErr, unpacks_scVbat, unpacks_scIbat, unpacks_scEday, unpacks_scPv, unpacks_scIload,
    by simp⟩

/-- Operations that each unpack do so together. -/
theorem runOps_unpacking {layout : Bool} {ops : List Instr} (h : ∀ i ∈ ops, Unpacks layout i) (s : State) :
    ∃ t, runOps ops s = .next t ∧ Unpacking layout s t := by
  induction ops generalizing s with
  | nil => exact ⟨s, rfl, .refl layout s⟩
  | cons i is ih =>
    obtain ⟨t, ht, hst⟩ := h i List.mem_cons_self s
    obtain ⟨u, hu, htu⟩ := ih (fun j hj => h j (List.mem_cons_of_mem i hj)) t
    exact ⟨u, by simpa only [runOps, ht] using hu, hst.trans htu⟩

/-! ## What a sequencer step can do (R94) -/

/-- What the sequencer's step at each stage makes of the state, as far as the machine's invariant sees it. -/
inductive SequencerEffect (s : State) : State → Prop where
  | reject (cause : RejectCause) : s.stage = 1 → SequencerEffect s (raiseReject cause s)
  | check : s.stage = 1 → SequencerEffect s (s.setStage 2)
  | genIv : s.stage = 2 → SequencerEffect s ({ s with iv := ivOf s.frame }.setStage 3)
  | ldBlk (cblk : Block) : s.stage = 3 → SequencerEffect s ({ s with cblk := cblk }.setStage 4)
  | decr (scr : Scratch) (dblk : Block) : s.stage = 4 →
      SequencerEffect s ({ s with scr := scr, dblk := dblk }.setStage 5)
  | unpack {t : State} : s.stage = 5 → Unpacking s.layout s t → SequencerEffect s (t.setStage 6)
  | alarm : s.stage = 6 → s.layout = false → SequencerEffect s ({ s with almcode := alarmCode s.v[2] }.setStage 7)
  | codes (known known' : Bool) : s.stage = 6 → SequencerEffect s (((s.setStKnown known).setErKnown known').setStage 7)
  | classify (mask : Byte) (suppress : Bool) : s.stage = 7 → (s.dudmask &&& 0x83 = 0 → mask &&& 0x83 = 0) →
      (s.layout = false → mask = s.dudmask) →
      SequencerEffect s
        (({ s with dudmask := mask, duds := BitVec.ofNat 3 (popcount mask) }.setSuppress suppress).setStage 8)
  | fin : s.stage = 8 → SequencerEffect s (((s.setAccept (s.rej == 0)).setDone true).setStage 0)

theorem sequencerStep_effect_chk {s : State} (h : s.stage = 1) :
    ∃ t, sequencerStep s = .next t ∧ SequencerEffect s t := by
  rw [sequencerStep_chk s h]
  simp only [exec, execChkFrm]
  split
  · exact ⟨_, rfl, .reject .length h⟩
  · split
    · exact ⟨_, rfl, .reject .marker h⟩
    · exact ⟨_, rfl, .check h⟩

theorem sequencerStep_effect_unp {s : State} (h : s.stage = 5) :
    ∃ t, sequencerStep s = .next t ∧ SequencerEffect s t := by
  have hops : ∀ i ∈ (if s.layout then scOps else bmOps (blockWord s.dblk)), Unpacks s.layout i := by
    cases s.layout with
    | false => exact unpacks_bmOps _
    | true => exact unpacks_scOps
  obtain ⟨t, ht, hst⟩ := runOps_unpacking hops s
  exact ⟨_, sequencerStep_unp s t h ht, .unpack h hst⟩

theorem sequencerStep_effect_cod {s : State} (h : s.stage = 6) :
    ∃ t, sequencerStep s = .next t ∧ SequencerEffect s t := by
  cases hl : s.layout with
  | false => exact ⟨_, sequencerStep_cod s _ h (by rw [hl]; rfl), .alarm h hl⟩
  | true => exact ⟨_, sequencerStep_cod s _ h (by rw [hl]; rfl), .codes _ _ h⟩

/-- The operations of stage RNG in the Solar Controller layout are DUDSUM of some flags in DUDMASK[6:2] (R102). -/
theorem runOps_rngOps (s : State) : ∃ mask : Byte, (s.dudmask &&& 0x83 = 0 → mask &&& 0x83 = 0) ∧
    runOps rngOps s = exec .dudSum { s with dudmask := mask } := by
  refine ⟨_, fun h => ?_, rfl⟩
  exact putBit_and_eq_zero _ (putBit_and_eq_zero _ (putBit_and_eq_zero _ (putBit_and_eq_zero _ (putBit_and_eq_zero _ h
    (by decide)) (by decide)) (by decide)) (by decide)) (by decide)

theorem sequencerStep_effect_rng {s : State} (h : s.stage = 7) :
    ∃ t, sequencerStep s = .next t ∧ SequencerEffect s t := by
  cases hl : s.layout with
  | false => exact ⟨_, sequencerStep_rng s _ h (by rw [hl]; rfl), .classify s.dudmask _ h id fun _ => rfl⟩
  | true =>
    obtain ⟨mask, hmask, hrun⟩ := runOps_rngOps s
    exact ⟨_, sequencerStep_rng s _ h (by rw [hl]; exact hrun), .classify mask _ h hmask fun h' => by simp [hl] at h'⟩

/-- At the codes 1 to 8 the sequencer's step answers a next state, by the effect of its stage. -/
theorem sequencerStep_effect {s : State} (h0 : s.stage ≠ 0) (h8 : s.stage.toNat ≤ 8) :
    ∃ t, sequencerStep s = .next t ∧ SequencerEffect s t := by
  obtain h | h | h | h | h | h | h | h : s.stage = 1 ∨ s.stage = 2 ∨ s.stage = 3 ∨ s.stage = 4 ∨ s.stage = 5 ∨
      s.stage = 6 ∨ s.stage = 7 ∨ s.stage = 8 := by bv_omega
  · exact sequencerStep_effect_chk h
  · exact ⟨_, sequencerStep_ivg s h, .genIv h⟩
  · exact ⟨_, sequencerStep_ldb s h, .ldBlk _ h⟩
  · exact ⟨_, sequencerStep_dec s h, .decr _ _ h⟩
  · exact sequencerStep_effect_unp h
  · exact sequencerStep_effect_cod h
  · exact sequencerStep_effect_rng h
  · exact ⟨_, sequencerStep_fin s h, .fin h⟩

/-! ## What a turn can do (R50) -/

/-- What a turn makes of the state. -/
inductive TurnEffect (s : State) : State → Prop where
  /-- No register changes: a read, a write without effect, a turn of a sequencer without a step. -/
  | observe (rdata : Byte) (draws : Nat) : TurnEffect s { s with rdata := rdata, draws := draws }
  | start : s.ready = false → TurnEffect s (startEffect s)
  | release : s.ready = true → s.done = true → TurnEffect s (releaseEffect s)
  | write (r : Reg) (v : Byte) : s.ready = false → TurnEffect s (s.writeReg r v)
  | reset : TurnEffect s (resetBlock s)
  | sequencer {t : State} : s.busy = true → SequencerEffect s t → TurnEffect s t

theorem TurnEffect.same (s : State) : TurnEffect s s := .observe s.rdata s.draws

theorem hostRead_effect (a : Byte) (s : State) : TurnEffect s (hostRead a s) := by
  obtain ⟨b, n, h⟩ := hostRead_frame a s
  rw [h]
  exact .observe b n

theorem hostWrite_effect (a v : Byte) (s : State) : TurnEffect s (hostWrite a v s) := by
  obtain h | ⟨_, _, hr, h⟩ | ⟨_, _, hr, hd, h⟩ | ⟨_, hr, r, _, h⟩ := hostWrite_cases a v s <;> rw [h]
  · exact .same s
  · exact .start hr
  · exact .release hr hd
  · exact .write r v hr

theorem sequencerTurn_effect {s : State} (h : SequencerOk s) :
    ∃ t, sequencerTurn s = .next t ∧ TurnEffect s t := by
  obtain ⟨hstage, hbusy, _⟩ := h
  unfold sequencerTurn
  by_cases hb : s.busy = true
  · obtain ⟨t, ht, heffect⟩ := sequencerStep_effect (hbusy.mp hb) hstage
    exact ⟨t, by rw [if_pos hb, ht], .sequencer hb heffect⟩
  · exact ⟨s, if_neg hb, .same s⟩

theorem takeTurn_effect (u : Turn) {s : State} (h : SequencerOk s) : ∃ t, takeTurn u s = .next t ∧ TurnEffect s t := by
  cases u with
  | access w =>
    obtain hw | ⟨a, v, hw⟩ := hostTurn_cases w s
    · exact ⟨_, hw, hostRead_effect _ s⟩
    · exact ⟨_, hw, hostWrite_effect a v s⟩
  | sequencer => exact sequencerTurn_effect h
  | reset => exact ⟨_, rfl, .reset⟩

/-- Where STAGE and the handshake agree a step answers a next state, by the effect of one turn on the state with that
turn taken off the schedule. -/
theorem step_effect {s : State} (h : SequencerOk s) :
    ∃ rest t, step s = .next t ∧ TurnEffect { s with schedule := rest } t := by
  unfold step nextTurn
  split
  · obtain ⟨t, ht, heffect⟩ := sequencerTurn_effect h
    exact ⟨s.schedule, t, ht, heffect⟩
  · next u us _ =>
    obtain ⟨t, ht, heffect⟩ := takeTurn_effect u (s := { s with schedule := us }) h
    exact ⟨us, t, ht, heffect⟩

/-! ## Reserved bits (R18, R20 to R24) -/

theorem reservedZero_reset : ReservedZero State.reset := by decide

theorem ReservedZero.writeReg {s : State} (h : ReservedZero s) (r : Reg) (v : Byte) :
    ReservedZero (s.writeReg r v) := by
  obtain ⟨hctrl, hstatus, hcfg, hflen, hftol, hmisc⟩ := h
  cases r with
  | cfg => exact ⟨hctrl, hstatus, and_and_eq_zero v (by decide), hflen, hftol, hmisc⟩
  | flen => exact ⟨hctrl, hstatus, hcfg, and_and_eq_zero v (by decide), hftol, hmisc⟩
  | ftol => exact ⟨hctrl, hstatus, hcfg, hflen, and_and_eq_zero v (by decide), hmisc⟩
  | bound b high => cases b <;> exact ⟨hctrl, hstatus, hcfg, hflen, hftol, hmisc⟩
  | _ => exact ⟨hctrl, hstatus, hcfg, hflen, hftol, hmisc⟩

theorem SequencerEffect.keeps_reservedZero {s t : State} (e : SequencerEffect s t) (h : ReservedZero s) :
    ReservedZero t := by
  obtain ⟨hctrl, hstatus, hcfg, hflen, hftol, hmisc⟩ := h
  cases e with
  | reject cause => exact ⟨hctrl, putPair_and_eq_zero _ hstatus (by decide) (by decide), hcfg, hflen, hftol, hmisc⟩
  | unpack _ hu =>
    have hm := hu.misc hmisc
    obtain ⟨_, _, _, rfl⟩ := hu.frame
    exact ⟨hctrl, hstatus, hcfg, hflen, hftol, hm⟩
  | codes =>
    exact ⟨hctrl, hstatus, hcfg, hflen, hftol,
      putBit_and_eq_zero _ (putBit_and_eq_zero _ hmisc (by decide)) (by decide)⟩
  | classify => exact ⟨hctrl, putBit_and_eq_zero _ hstatus (by decide), hcfg, hflen, hftol, hmisc⟩
  | fin =>
    exact ⟨hctrl, putBit_and_eq_zero _ (putBit_and_eq_zero _ hstatus (by decide)) (by decide), hcfg, hflen, hftol,
      hmisc⟩
  | _ => exact ⟨hctrl, hstatus, hcfg, hflen, hftol, hmisc⟩

theorem TurnEffect.keeps_reservedZero {s t : State} (e : TurnEffect s t) (h : ReservedZero s) : ReservedZero t := by
  cases e with
  | observe => exact h
  | start =>
    obtain ⟨hctrl, _, hcfg, hflen, hftol, _⟩ := h
    exact ⟨putBit_and_eq_zero true hctrl (by decide), BitVec.zero_and, hcfg, hflen, hftol, BitVec.zero_and⟩
  | release =>
    obtain ⟨hctrl, hstatus, hrest⟩ := h
    exact ⟨putBit_and_eq_zero false hctrl (by decide), putBit_and_eq_zero false hstatus (by decide), hrest⟩
  | write r v => exact h.writeReg r v
  | reset => exact reservedZero_reset
  | sequencer _ es => exact es.keeps_reservedZero h

/-! ## STAGE and the handshake (R14, R94) -/

theorem sequencerOk_reset : SequencerOk State.reset := by decide

theorem SequencerOk.stage_eq_zero {s : State} (h : SequencerOk s) (hb : s.busy = false) : s.stage = 0 := by
  obtain ⟨_, hbusy, _⟩ := h
  by_contra hs
  simp [hbusy.mpr hs] at hb

/-- A state in flight at one of the codes 1 to 8. -/
theorem sequencerOk_of_busy {s : State} (hb : s.busy = true) (h0 : s.stage ≠ 0) (h8 : s.stage.toNat ≤ 8) :
    SequencerOk s :=
  ⟨h8, ⟨fun _ => h0, fun _ => hb⟩, fun _ => ((State.busy_iff s).mp hb).1⟩

/-- An idle state: STAGE 0, no step for the sequencer, DONE only with READY. -/
theorem sequencerOk_of_idle {s : State} (hb : s.busy = false) (h0 : s.stage = 0) (hd : s.done = true → s.ready = true) :
    SequencerOk s :=
  ⟨by simp [h0], by simp [hb, h0], hd⟩

theorem SequencerEffect.keeps_sequencerOk {s t : State} (e : SequencerEffect s t) (hb : s.busy = true) :
    SequencerOk t := by
  cases e with
  | reject => exact sequencerOk_of_busy ((State.setRej_busy s _).trans hb) (by simp) (by simp)
  | unpack _ hu =>
    obtain ⟨_, _, _, rfl⟩ := hu.frame
    exact sequencerOk_of_busy hb (by simp) (by simp)
  | classify => exact sequencerOk_of_busy ((State.setSuppress_busy _ _).trans hb) (by simp) (by simp)
  | fin =>
    have hr := ((State.busy_iff s).mp hb).1
    exact sequencerOk_of_idle (by simp [State.busy]) rfl fun _ => hr
  | _ => exact sequencerOk_of_busy hb (by simp) (by simp)

theorem TurnEffect.keeps_sequencerOk {s t : State} (e : TurnEffect s t) (h : SequencerOk s) : SequencerOk t := by
  cases e with
  | observe => exact h
  | start => exact sequencerOk_of_busy (by simp [State.busy]) (by simp) (by simp)
  | release hr hd =>
    have h0 := h.stage_eq_zero (by simp [State.busy, hd])
    exact sequencerOk_of_idle (by simp [State.busy]) h0 (by simp)
  | write r v => cases r with
    | bound b high => cases b <;> exact h
    | _ => exact h
  | reset => exact sequencerOk_reset
  | sequencer hb es => exact es.keeps_sequencerOk hb

/-! ## What a rejection leaves (R200, R205) -/

theorem perFrameZero_reset : PerFrameZero State.reset := ⟨rfl, rfl, rfl, rfl, rfl, rfl, rfl, rfl, rfl⟩

theorem perFrameZero_startEffect (s : State) : PerFrameZero (startEffect s) :=
  ⟨rfl, rfl, rfl, rfl, rfl, rfl, rfl, rfl, rfl⟩

/-- STATUS is zero and the per-frame registers are: the state at reset, and the state START leaves. -/
theorem rejectOk_of_clear {s : State} (hstatus : s.status = 0) (hzero : PerFrameZero s) : RejectOk s := by
  have hrej : s.rej = 0 := by rw [State.rej, hstatus]; rfl
  have hacc : s.accept = false := by rw [State.accept, hstatus]; rfl
  have hdone : s.done = false := by rw [State.done, hstatus]; rfl
  have hsup : s.suppress = false := by rw [State.suppress, hstatus]; rfl
  exact ⟨by simp [hrej], fun _ _ => hrej, fun _ => hacc, fun h => by simp [hdone] at h, fun h => absurd hrej h,
    fun _ => ⟨hsup, hzero⟩⟩

/-- A frame in flight past the check has no cause recorded. -/
theorem rejectOk_of_past_check {s : State} (hrej : s.rej = 0) (hacc : s.accept = false) (hdone : s.done = false)
    (h1 : s.stage ≠ 1) : RejectOk s :=
  ⟨by simp [hrej], fun _ _ => hrej, fun _ => hacc, fun h => by simp [hdone] at h, fun h => absurd hrej h,
    fun h => absurd h h1⟩

theorem SequencerEffect.keeps_rejectOk {s t : State} (e : SequencerEffect s t) (hb : s.busy = true)
    (h : RejectOk s) : RejectOk t := by
  obtain ⟨hcode, hmid, hacc, _, hrejected, hstart⟩ := h
  replace hacc := hacc hb
  have hdone := ((State.busy_iff s).mp hb).2
  have hrej : s.stage ≠ 0 ∧ s.stage ≠ 8 → s.rej = 0 := fun ⟨h0, h8⟩ => hmid h0 h8
  cases e with
  | reject cause h1 =>
    obtain ⟨hsup, hzero⟩ := hstart h1
    have hacc' : (raiseReject cause s).accept = false := (State.setRej_accept s _).trans hacc
    have hsup' : (raiseReject cause s).suppress = false := (State.setRej_suppress s _).trans hsup
    have hdone' : (raiseReject cause s).done = false := (State.setRej_done s _).trans hdone
    have hrej' : (raiseReject cause s).rej = rejectCode cause := State.setRej_rej s _
    refine ⟨?_, fun _ h8 => absurd rfl h8, fun _ => hacc', fun hd => by simp [hdone'] at hd,
      fun _ => ⟨hacc', hsup', hzero⟩, fun h => by simp at h⟩
    rw [hrej']
    cases cause <;> decide
  | check hs => exact rejectOk_of_past_check (hrej (by simp [hs])) hacc hdone (by simp)
  | genIv hs => exact rejectOk_of_past_check (hrej (by simp [hs])) hacc hdone (by simp)
  | ldBlk _ hs => exact rejectOk_of_past_check (hrej (by simp [hs])) hacc hdone (by simp)
  | decr _ _ hs => exact rejectOk_of_past_check (hrej (by simp [hs])) hacc hdone (by simp)
  | unpack hs hu =>
    obtain ⟨_, _, _, rfl⟩ := hu.frame
    exact rejectOk_of_past_check (hrej (by simp [hs])) hacc hdone (by simp)
  | alarm hs => exact rejectOk_of_past_check (hrej (by simp [hs])) hacc hdone (by simp)
  | codes _ _ hs => exact rejectOk_of_past_check (hrej (by simp [hs])) hacc hdone (by simp)
  | classify _ _ hs =>
    exact rejectOk_of_past_check ((State.setSuppress_rej _ _).trans (hrej (by simp [hs])))
      ((State.setSuppress_accept _ _).trans hacc) ((State.setSuppress_done _ _).trans hdone) (by simp)
  | fin =>
    have hrej' : (((s.setAccept (s.rej == 0)).setDone true).setStage 0).rej = s.rej := by simp
    have hacc' : (((s.setAccept (s.rej == 0)).setDone true).setStage 0).accept = (s.rej == 0) := by simp
    have hsup' : (((s.setAccept (s.rej == 0)).setDone true).setStage 0).suppress = s.suppress := by simp
    rw [RejectOk, hrej', hacc', hsup']
    refine ⟨hcode, fun h0 => absurd rfl h0, fun hb' => by simp [State.busy] at hb', fun _ => beq_iff_eq,
      fun hr => ?_, fun h => by simp at h⟩
    obtain ⟨_, hsup, hzero⟩ := hrejected hr
    exact ⟨by simpa using hr, hsup, hzero⟩

theorem TurnEffect.keeps_rejectOk {s t : State} (e : TurnEffect s t) (hs : SequencerOk s) (h : RejectOk s) :
    RejectOk t := by
  cases e with
  | observe => exact h
  | start => exact rejectOk_of_clear rfl (perFrameZero_startEffect s)
  | release hr hd =>
    obtain ⟨hcode, _, _, _, hrejected, _⟩ := h
    have h0 : (releaseEffect s).stage = 0 := hs.stage_eq_zero (by simp [State.busy, hd])
    have hrej : (releaseEffect s).rej = s.rej := State.setDone_rej _ _
    have hacc : (releaseEffect s).accept = s.accept := State.setDone_accept _ _
    have hsup : (releaseEffect s).suppress = s.suppress := State.setDone_suppress _ _
    rw [RejectOk, hrej, hacc, hsup, h0]
    exact ⟨hcode, fun h => absurd rfl h, fun hb => by simp [State.busy] at hb, fun hd' => by simp at hd', hrejected,
      fun h => by simp at h⟩
  | write r v => cases r with
    | bound b high => cases b <;> exact h
    | _ => exact h
  | reset => exact rejectOk_of_clear rfl perFrameZero_reset
  | sequencer hb es => exact es.keeps_rejectOk hb h

/-! ## The result registers and flags (R13 to R19) -/

/-- The cleared result registers are in every range. -/
theorem readingOk_of_perFrameZero {s : State} (h : PerFrameZero s) : ReadingOk s := by
  obtain ⟨hiv, _, _, hv, havail, hmask, hduds, _, halm⟩ := h
  have hx : ∀ i : Fin 8, s.x i = 0 := fun i => by simp [State.x, hv]
  have hranges : ∀ layout, RangesOf layout s := fun layout i => by rw [hx]; exact countRange_zero layout i
  have hbm : BmRanges s := (rangesOf_false_iff s).mp (hranges false)
  have hsc : ScRanges s := (rangesOf_true_iff s).mp (hranges true)
  refine ⟨by simp [hv], by simp [State.available, havail], fun i _ => by rw [hiv, zeroBlock_getElem],
    ⟨Or.inl hbm, fun _ _ => hbm, fun _ _ => hsc⟩, by rw [hmask]; decide, by rw [hmask, hduds]; decide,
    by rw [halm]; decide, fun _ _ => hmask, fun _ _ => halm⟩

/-- While READY = 0 nothing is said of the layout: the same result registers and flags are enough. -/
theorem ReadingOk.unlocked {s t : State} (h : ReadingOk s) (hr : t.ready = false) (hv : t.v = s.v)
    (havail : t.avail = s.avail) (hiv : t.iv = s.iv) (hmask : t.dudmask = s.dudmask) (hduds : t.duds = s.duds)
    (halm : t.almcode = s.almcode) : ReadingOk t := by
  obtain ⟨h7, ha7, hivz, ⟨hranges, _, _⟩, hmask0, hcount, halm16, _, _⟩ := h
  have hx : ∀ i : Fin 8, t.x i = s.x i := fun i => by rw [State.x, hv, State.x]
  have locked : ∀ {p : Prop}, t.ready = true → p := fun h => by simp [hr] at h
  refine ⟨by rw [hv, h7], by rw [State.available, havail]; exact ha7, by rwa [hiv], ⟨?_, locked, locked⟩,
    by rwa [hmask], by rwa [hmask, hduds], by rwa [halm], locked, locked⟩
  simpa only [BmRanges, ScRanges, hx] using hranges

theorem SequencerEffect.keeps_readingOk {s t : State} (e : SequencerEffect s t) (hb : s.busy = true)
    (h : ReadingOk s) : ReadingOk t := by
  have hr := ((State.busy_iff s).mp hb).1
  cases e with
  | genIv =>
    obtain ⟨h7, ha7, _, hrest⟩ := h
    exact ⟨h7, ha7, ivOf_getElem s.frame, hrest⟩
  | unpack _ hu =>
    obtain ⟨h7, ha7, hiv, hcounts, hrest⟩ := h
    have h7' := hu.v7.trans h7
    have ha7' := hu.avail7.trans ha7
    have hranges := hu.ranges ((countsOk_iff_of_ready hr).mp hcounts)
    obtain ⟨v, avail, misc, rfl⟩ := hu.frame
    have hcounts' := (countsOk_iff_of_ready (s := { s with v := v, avail := avail, misc := misc }) hr).mpr hranges
    exact ⟨h7', ha7', hiv, hcounts', hrest⟩
  | alarm _ hl =>
    obtain ⟨h7, ha7, hiv, hcounts, hmask, hcount, _, hbm, _⟩ := h
    exact ⟨h7, ha7, hiv, hcounts, hmask, hcount, alarmCode_le _, hbm, fun _ h' => absurd (hl.symm.trans h') (by decide)⟩
  | classify mask _ _ hkeep hsame =>
    obtain ⟨h7, ha7, hiv, hcounts, hmask, _, halm, hbm, hsc⟩ := h
    exact ⟨h7, ha7, hiv, hcounts, hkeep hmask, toNat_duds mask (hkeep hmask), halm,
      fun _ hl => (hsame hl).trans (hbm hr hl), hsc⟩
  | _ => exact h

theorem TurnEffect.keeps_readingOk {s t : State} (e : TurnEffect s t) (h : ReadingOk s) : ReadingOk t := by
  cases e with
  | observe => exact h
  | start => exact readingOk_of_perFrameZero (perFrameZero_startEffect s)
  | release => exact h.unlocked (releaseEffect_ready s) rfl rfl rfl rfl rfl rfl
  | write r v hr =>
    exact h.unlocked (by rw [State.ready, State.writeReg_ctrl]; exact hr) (s.writeReg_v r v) (s.writeReg_avail r v)
      (s.writeReg_iv r v) (s.writeReg_dudmask r v) (s.writeReg_duds r v) (s.writeReg_almcode r v)
  | reset => exact readingOk_of_perFrameZero perFrameZero_reset
  | sequencer hb es => exact es.keeps_readingOk hb h

/-! ## Reads and KEY (R26) -/

theorem State.readReg_key_irrelevant (s : State) (k : Block) (r : Reg) :
    { s with key := k }.readReg r = s.readReg r := by
  cases r with
  | bound b high => cases b <;> rfl
  | _ => rfl

/-- A read commutes with replacing the key. -/
theorem hostRead_key_irrelevant (a : Byte) (s : State) (k : Block) :
    hostRead a { s with key := k } = { hostRead a s with key := k } := by
  unfold hostRead
  cases regAt a with
  | none => rfl
  | some r =>
    have hbusy : { s with key := k }.busy = s.busy := rfl
    simp only [State.readReg_key_irrelevant, hbusy]
    split <;> rfl

end Sys2Proof.Machine

namespace Sys2Proof.Proofs

open Sys2Proof.Machine

/-- Settles O54: a step has the effect of one turn, and every effect keeps each of the four parts. -/
theorem everyStepKeepsTheInvariant : Obligations.EveryStepKeepsTheInvariant := by
  rintro s t ⟨hreserved, hseq, hreject, hreading⟩ hstep
  obtain ⟨rest, t', hstep', e⟩ := step_effect hseq
  obtain rfl : t' = t := Host.Outcome.next.inj (hstep'.symm.trans hstep)
  exact ⟨e.keeps_reservedZero hreserved, e.keeps_sequencerOk hseq, e.keeps_rejectOk hseq hreject,
    e.keeps_readingOk hreading⟩

/-- Settles O7: by the codes that `decodeStage` names. -/
theorem onlyStagesOneToEightDecode : Obligations.OnlyStagesOneToEightDecode := by
  refine ⟨fun sel hwf => ?_, fun w b hwf => ?_⟩
  · cases sel with
    | host w ready done => exact ⟨_, rfl⟩
    | sequencer w b =>
      obtain ⟨h1, h8⟩ := of_decide_eq_true hwf
      exact decodeStage_of_code w b h1 h8
  · have hcode : ¬(1 ≤ (stageCode w).toNat ∧ (stageCode w).toNat ≤ 8) := of_decide_eq_false hwf
    have hno : (stageCode w).toNat = 0 ∨ 9 ≤ (stageCode w).toNat := by omega
    exact ⟨decodeStage_of_no_code w b hno, hno.imp_left BitVec.eq_of_toNat_eq⟩

/-- Settles O18: no register is read through KEY. -/
theorem noReadRevealsTheKey : Obligations.NoReadRevealsTheKey :=
  fun a _ s k => ⟨_, _, rfl, rfl, hostRead_key_irrelevant a s k⟩

/-- Settles O53: a sequencer in step with the handshake has an operation to run or none to take. -/
theorem theMachineNeverStops : Obligations.TheMachineNeverStops := by
  intro s h
  obtain ⟨rest, t, ht, e⟩ := step_effect h
  exact ⟨t, ht, e.keeps_sequencerOk h⟩

/-- Settles O1. -/
theorem resetLeavesEveryRegisterZero : Obligations.ResetLeavesEveryRegisterZero := by
  have hround : ∀ (j : Fin 11) (i : Fin 16), State.reset.scr.rk[j][i] = 0 := fun j i => by
    rw [show State.reset.scr.rk[j] = zeroBlock from Vector.getElem_replicate j.isLt, zeroBlock_getElem]
  exact ⟨rfl, rfl, rfl, rfl, rfl, rfl, rfl, rfl, rfl, rfl, rfl, rfl, rfl, rfl, rfl, rfl, rfl, rfl, zeroBlock_getElem,
    fun i => Vector.getElem_replicate i.isLt, zeroBlock_getElem, zeroBlock_getElem, zeroBlock_getElem, hround,
    zeroBlock_getElem, zeroBlock_getElem⟩

/-- Settles O51: the base case of the invariant that O54 keeps. -/
theorem resetSatisfiesTheInvariant : Obligations.ResetSatisfiesTheInvariant :=
  ⟨reservedZero_reset, sequencerOk_reset, rejectOk_of_clear rfl perFrameZero_reset,
    readingOk_of_perFrameZero perFrameZero_reset⟩

end Sys2Proof.Proofs
end

section
/-! PROOFS of the family 20_memory.md: the address map and what stands at each address, host writes outside and inside
the write lock, reserved bits, and how host accesses interleave with the sequencer. -/

namespace Sys2Proof

/-! ## The operations of the sequencer (R60) -/

/-- The operation's row fixes bits of a stage word, not of a host word (R81). -/
def Instr.ofSequencer (i : Instr) : Bool :=
  match i.row with
  | .sequencer _ _ _ _ => true
  | .host _ _ => false

theorem auxForm_ofSequencer (n : BitVec 2) : (auxForm n).ofSequencer = true := by
  unfold auxForm
  split <;> rfl

/-- A stage word selects operations of the sequencer only (R94). -/
theorem decodeStage_ofSequencer {w : StageWord} {b : BlockWord} {ops : List Instr} (h : decodeStage w b = .ok ops) :
    ops.all Instr.ofSequencer = true := by
  have hbm : (bmOps b).all Instr.ofSequencer = true := by
    simp only [bmOps, List.all_cons, auxForm_ofSequencer]
    rfl
  unfold decodeStage at h
  split at h <;> cases h
  case h_5 => split <;> [rfl; exact hbm]
  case h_6 => split <;> rfl
  case h_7 => split <;> rfl
  all_goals rfl

end Sys2Proof

namespace Sys2Proof.Machine

/-! ## The address map (R41) -/

/-- The address of a register byte: a register's first address, bytes and array elements in ascending order (R42). -/
def Reg.addr : Reg → Byte
  | .ctrl => 0x00
  | .status => 0x01
  | .stage => 0x02
  | .cfg => 0x03
  | .flen => 0x04
  | .ftol => 0x05
  | .duds => 0x06
  | .dudmask => 0x07
  | .avail => 0x08
  | .misc => 0x09
  | .almcode => 0x0A
  | .key i => BitVec.ofNat 8 (0x10 + i.val)
  | .frame i => BitVec.ofNat 8 (0x20 + i.val)
  | .iv i => BitVec.ofNat 8 (0x40 + i.val)
  | .cblk i => BitVec.ofNat 8 (0x50 + i.val)
  | .dblk i => BitVec.ofNat 8 (0x60 + i.val)
  | .bound b high => BitVec.ofNat 8 (boundAddr b + high.toNat)
  | .result i k => BitVec.ofNat 8 (0x80 + k.val + 4 * i.val)

theorem regAt_addr (r : Reg) : regAt r.addr = some r := by
  cases r with
  | key i => revert i; decide
  | frame i => revert i; decide
  | iv i => revert i; decide
  | cblk i => revert i; decide
  | dblk i => revert i; decide
  | bound b high => cases b <;> cases high <;> decide
  | result i k => revert i k; decide
  | _ => rfl

theorem addr_of_regAt {a : Byte} {r : Reg} (h : regAt a = some r) : r.addr = a := by
  have hall : ∀ a : Byte, (regAt a).all (fun r => r.addr == a) = true := by decide
  simpa [h] using hall a

/-- The map is one to one: each register byte has one address (R41). -/
theorem regAt_eq_some_iff (a : Byte) (r : Reg) : regAt a = some r ↔ a = r.addr :=
  ⟨fun h => (addr_of_regAt h).symm, fun h => h ▸ regAt_addr r⟩

/-! ## What stands at an address (R41, R42) -/

theorem State.peek_of_regAt (s : State) {a : Byte} {r : Reg} (h : regAt a = some r) : s.peek a = s.readReg r := by
  simp only [State.peek, h]

theorem State.peek_reserved (s : State) {a : Byte} (h : regAt a = none) : s.peek a = 0 := by
  simp only [State.peek, h]

theorem State.peek_addr (s : State) (r : Reg) : s.peek r.addr = s.readReg r := s.peek_of_regAt (regAt_addr r)

/-- The two bytes of a bound, the high one first, are the bound (R42). -/
theorem State.peek_bound (s : State) (b : Bound) :
    s.peek (Reg.bound b true).addr ++ s.peek (Reg.bound b false).addr = s.bound b := by
  rw [s.peek_addr, s.peek_addr]
  exact BitVec.extractLsb'_append_extractLsb'

/-- The four bytes of a result register, the most significant first, are the register (R42). -/
theorem bytes_append32 (r : Word32) :
    r.extractLsb' 24 8 ++ r.extractLsb' 16 8 ++ r.extractLsb' 8 8 ++ r.extractLsb' 0 8 = r := by
  rw [BitVec.extractLsb'_append_extractLsb'_eq_extractLsb' (by rfl),
    BitVec.extractLsb'_append_extractLsb'_eq_extractLsb' (by rfl),
    BitVec.extractLsb'_append_extractLsb'_eq_extractLsb' (by rfl)]
  exact BitVec.extractLsb'_eq_self

theorem State.peek_result (s : State) (i : Fin 8) (k : Fin 4) :
    s.peek (BitVec.ofNat 8 (0x80 + k.val + 4 * i.val)) = s.v[i].extractLsb' (8 * k.val) 8 :=
  s.peek_addr (.result i k)

/-! ## READV (R80) -/

/-- The byte a read handed over is at no address. -/
theorem State.peek_rdata (s : State) (b a : Byte) : { s with rdata := b }.peek a = s.peek a := by
  cases ha : regAt a with
  | none => simp only [State.peek_reserved _ ha]
  | some r =>
    simp only [State.peek_of_regAt _ ha]
    cases r with
    | bound c high => cases c <;> rfl
    | _ => rfl

theorem Turn.returned_turnRead (a : Byte) (t : State) : (turnRead a).returned t = [t.rdata] := by
  simp only [turnRead, Turn.returned, hostIsWrite_hostWord, Bool.false_eq_true, if_false]

/-- Outside the processing window reads return the exact bytes, in order (R47, R90). -/
theorem returnedBytes_reads (as : List Byte) {s : State} (h : s.busy = false) :
    returnedBytes (as.map turnRead) s = as.map s.peek := by
  induction as generalizing s with
  | nil => rfl
  | cons a as ih =>
    have hrest : returnedBytes (as.map turnRead) { s with rdata := s.peek a } = as.map s.peek := by
      rw [ih (s := { s with rdata := s.peek a }) h]
      exact List.map_congr_left fun b _ => s.peek_rdata _ b
    simp only [List.map_cons, returnedBytes, takeTurn_turnRead, hostRead_exact a s h, hrest, Turn.returned_turnRead,
      List.singleton_append]

/-- A 32-bit word is the number its four bytes are, least significant first. -/
theorem numberOf_bytes (r : Word32) :
    numberOf ([0, 1, 2, 3].map fun k => r.extractLsb' (8 * k) 8) = r.toNat := by
  have := r.isLt
  simp only [List.map_cons, List.map_nil, numberOf, BitVec.extractLsb'_toNat, Nat.shiftRight_eq_div_pow]
  omega

theorem returnedBytes_readV (i : Fin 8) {s : State} (h : s.busy = false) :
    returnedBytes (readV i) s = [0, 1, 2, 3].map fun k => s.v[i].extractLsb' (8 * k) 8 := by
  have hreads : readV i = ([0, 1, 2, 3].map fun k => BitVec.ofNat 8 (0x80 + k + 4 * i.val)).map turnRead := by
    simp only [readV, List.map_map, Function.comp_def, Nat.add_right_comm]
  rw [hreads, returnedBytes_reads _ h]
  simp only [List.map_cons, List.map_nil]
  exact congrArg₂ _ (s.peek_result i 0) (congrArg₂ _ (s.peek_result i 1) (congrArg₂ _ (s.peek_result i 2)
    (congrArg₂ _ (s.peek_result i 3) rfl)))

theorem readValue_eq (i : Fin 8) {s : State} (h : s.busy = false) : readValue i s = s.x i := by
  rw [readValue, returnedBytes_readV i h, numberOf_bytes, tc_toNat (by decide), State.x]

/-! ## A byte of a bound (R42) -/

/-- The low or the high byte of a 16-bit register. -/
def byte16 (r : Word16) (high : Bool) : Byte := if high then r.extractLsb' 8 8 else r.extractLsb' 0 8

theorem State.readReg_bound (s : State) (b : Bound) (high : Bool) :
    s.readReg (.bound b high) = byte16 (s.bound b) high := rfl

theorem byte16_putByte16_same (r : Word16) (high : Bool) (v : Byte) : byte16 (putByte16 r high v) high = v := by
  cases high with
  | false => exact BitVec.extractLsb'_append_eq_right
  | true => exact BitVec.extractLsb'_append_eq_left

theorem byte16_putByte16_ne (r : Word16) {high high' : Bool} (v : Byte) (h : high' ≠ high) :
    byte16 (putByte16 r high v) high' = byte16 r high' := by
  obtain rfl := Bool.eq_not_of_ne h
  cases high with
  | false => exact BitVec.extractLsb'_append_eq_left
  | true => exact BitVec.extractLsb'_append_eq_right

theorem putByte16_putByte16 (r : Word16) (high : Bool) (v : Byte) :
    putByte16 (putByte16 r high v) high v = putByte16 r high v := by
  cases high with
  | false => exact congrArg (· ++ v) (byte16_putByte16_ne r v (by decide : true ≠ false))
  | true => exact congrArg (v ++ ·) (byte16_putByte16_ne r v (by decide : false ≠ true))

theorem State.setBoundByte_bound (s : State) (b c : Bound) (high : Bool) (v : Byte) :
    (s.setBoundByte b high v).bound c = if c = b then putByte16 (s.bound b) high v else s.bound c := by
  cases b <;> cases c <;> rfl

/-! ## Writing a register byte (R91) -/

/-- Only the registers the host may write can differ (R41). -/
theorem State.writeReg_frame (s : State) (r : Reg) (v : Byte) :
    s.writeReg r v = { s with
      cfg := (s.writeReg r v).cfg, flen := (s.writeReg r v).flen, ftol := (s.writeReg r v).ftol,
      vmin := (s.writeReg r v).vmin, vmax := (s.writeReg r v).vmax, imin := (s.writeReg r v).imin,
      imax := (s.writeReg r v).imax, emax := (s.writeReg r v).emax, pmax := (s.writeReg r v).pmax,
      key := (s.writeReg r v).key, frame := (s.writeReg r v).frame } := by
  cases r with
  | bound b high => cases b <;> rfl
  | _ => rfl

@[simp] theorem State.writeReg_ready (s : State) (r : Reg) (v : Byte) : (s.writeReg r v).ready = s.ready := by
  rw [State.ready, State.writeReg_ctrl, State.ready]

theorem State.writeReg_key_of_ne (s : State) {r : Reg} (v : Byte) (h : ∀ i, r ≠ .key i) :
    (s.writeReg r v).key = s.key := by
  cases r with
  | key i => exact absurd rfl (h i)
  | bound b high => cases b <;> rfl
  | _ => rfl

/-! The bits `m` of `v` written over a byte, where `m` is a field, nothing, or the whole byte. -/

theorem and_overwrite {n : Nat} (v x m : BitVec n) : v &&& m &&& m = (v &&& m) ||| (x &&& m &&& ~~~m) := by
  simp [BitVec.and_assoc]

theorem overwrite_none {n : Nat} (v x : BitVec n) : x = (v &&& 0) ||| (x &&& ~~~0) := by
  simp

theorem overwrite_all {n : Nat} (v x : BitVec n) : v = (v &&& BitVec.allOnes n) ||| (x &&& ~~~BitVec.allOnes n) := by
  simp

/-- What a written register reads back: the written bits where they can be written, the old ones elsewhere (R91). -/
theorem State.readReg_writeReg_same (s : State) (r : Reg) (v : Byte) :
    (s.writeReg r v).readReg r = (v &&& r.readBackMask) ||| (s.readReg r &&& ~~~r.readBackMask) := by
  cases r with
  | cfg => exact and_overwrite v s.cfg 0x07
  | flen => exact and_overwrite v s.flen 0x1F
  | ftol => exact and_overwrite v s.ftol 0x07
  | frame i => exact (Vector.getElem_set_self i.isLt).trans (overwrite_all v _)
  | bound b high =>
    rw [State.readReg_bound, State.writeReg, State.setBoundByte_bound, if_pos rfl, byte16_putByte16_same]
    exact overwrite_all v _
  | _ => exact overwrite_none v _

/-- Writing a register byte leaves every other one as it was (R91). -/
theorem State.readReg_writeReg_ne (s : State) {r r' : Reg} (v : Byte) (h : r' ≠ r) :
    (s.writeReg r v).readReg r' = s.readReg r' := by
  cases r with
  | cfg => cases r' with
    | cfg => exact absurd rfl h
    | _ => rfl
  | flen => cases r' with
    | flen => exact absurd rfl h
    | _ => rfl
  | ftol => cases r' with
    | ftol => exact absurd rfl h
    | _ => rfl
  | key i => exact s.readReg_key_irrelevant _ r'
  | frame i => cases r' with
    | frame j =>
      have hij : i.val ≠ j.val := fun e => h (congrArg Reg.frame (Fin.ext e.symm))
      exact Vector.getElem_set_ne i.isLt j.isLt hij
    | _ => rfl
  | bound b high => cases r' with
    | bound c high' =>
      rw [State.readReg_bound, State.readReg_bound, State.writeReg, State.setBoundByte_bound]
      by_cases hc : c = b
      · subst hc
        have hhigh : high' ≠ high := fun e => h (congrArg (Reg.bound c) e)
        rw [if_pos rfl, byte16_putByte16_ne _ v hhigh]
      · rw [if_neg hc]
    | _ => cases b <;> rfl
  | _ => rfl

/-- A write at one address shows at no other (R91). -/
theorem State.peek_writeReg_ne (s : State) {r : Reg} {b : Byte} (v : Byte) (h : b ≠ r.addr) :
    (s.writeReg r v).peek b = s.peek b := by
  cases hb : regAt b with
  | none => rw [State.peek_reserved _ hb, State.peek_reserved _ hb]
  | some r' =>
    have hr : r' ≠ r := fun e => h (e ▸ (addr_of_regAt hb).symm)
    rw [State.peek_of_regAt _ hb, State.peek_of_regAt _ hb, s.readReg_writeReg_ne v hr]

/-- The value kept of a written byte does not depend on what was there (R45). -/
theorem State.writeReg_writeReg (s : State) (r : Reg) (v : Byte) :
    (s.writeReg r v).writeReg r v = s.writeReg r v := by
  cases r with
  | key i => simp only [State.writeReg, Vector.set_set]
  | frame i => simp only [State.writeReg, Vector.set_set]
  | bound b high => cases b <;> simp only [State.writeReg, State.setBoundByte, putByte16_putByte16]
  | _ => rfl

/-! ## The host's write, case by case (R91) -/

/-- The write lock (R46). -/
theorem hostWrite_locked {a : Byte} (v : Byte) {s : State} (ha : a ≠ 0) (hr : s.ready = true) :
    hostWrite a v s = s := by
  rw [hostWrite, if_neg ha, if_pos hr]

/-- A reserved address takes no write (R48). -/
theorem hostWrite_reserved {a : Byte} (v : Byte) (s : State) (ha : a ≠ 0) (hreg : regAt a = none) :
    hostWrite a v s = s := by
  simp only [hostWrite, ha, hreg, if_false, ite_self]

theorem hostWrite_unlocked {a : Byte} {r : Reg} (v : Byte) {s : State} (ha : a ≠ 0) (hr : s.ready = false)
    (hreg : regAt a = some r) : hostWrite a v s = s.writeReg r v := by
  simp only [hostWrite, ha, hr, hreg, if_false, Bool.false_eq_true]

/-- A write to any address but CTRL is idempotent (R45). -/
theorem hostWrite_hostWrite {a : Byte} (v : Byte) (s : State) (ha : a ≠ 0) :
    hostWrite a v (hostWrite a v s) = hostWrite a v s := by
  cases hr : s.ready with
  | true => simp only [hostWrite_locked v ha hr]
  | false =>
    cases hreg : regAt a with
    | none => simp only [hostWrite_reserved v _ ha hreg]
    | some r =>
      rw [hostWrite_unlocked v ha hr hreg, hostWrite_unlocked v ha ((s.writeReg_ready r v).trans hr) hreg,
        s.writeReg_writeReg r v]

/-! ## A host access in flight (R45, R46, R93) -/

theorem hostTurn_busy (w : HostWord) {s : State} (h : s.busy = true) :
    ∃ t, hostTurn w s = .next t ∧ blockOf t = blockOf s := by
  obtain hw | ⟨a, v, hw⟩ := hostTurn_cases w s
  · obtain ⟨b, n, hread⟩ := hostRead_frame (hostAddr w) s
    exact ⟨_, hw, by rw [hread]; rfl⟩
  · exact ⟨_, hw, by rw [hostWrite_busy a v s h]⟩

/-! ## The sequencer's step by what is decoded (R94) -/

theorem sequencerStep_of_decode {s t : State} {ops : List Instr}
    (hd : decode (.sequencer s.stageWord (blockWord s.dblk)) = .ok ops) (ht : runOps ops s = .next t) :
    sequencerStep s = .next (advanceStage s.stage t) := by
  simp only [sequencerStep, hd, ht]

theorem sequencerStep_of_decode_error {s : State} {e : DecodeError}
    (hd : decode (.sequencer s.stageWord (blockWord s.dblk)) = .error e) :
    sequencerStep s = .fault (.noStageOperation s.stage) := by
  simp only [sequencerStep, hd]

theorem sequencerTurn_of_busy {s : State} (h : s.busy = true) : sequencerTurn s = sequencerStep s := if_pos h

theorem sequencerTurn_of_idle {s : State} (h : s.busy = false) : sequencerTurn s = .next s :=
  if_neg (by simp only [h, Bool.false_eq_true, not_false_eq_true])

theorem step_of_schedule_nil {s : State} (h : s.schedule = []) : step s = sequencerTurn s := by
  simp only [step, nextTurn, h]

theorem step_of_schedule_cons {s : State} {u : Turn} {us : List Turn} (h : s.schedule = u :: us) :
    step s = takeTurn u { s with schedule := us } := by
  simp only [step, nextTurn, h]

/-! ## What a turn that answers a next state has done, whatever the state before it -/

/-- A step of the sequencer that answers a next state is at one of the codes 1 to 8 (R14). -/
theorem stage_of_sequencerStep_next {s t : State} (h : sequencerStep s = .next t) :
    s.stage ≠ 0 ∧ s.stage.toNat ≤ 8 := by
  by_contra hcode
  have hno : s.stage.toNat = 0 ∨ 9 ≤ s.stage.toNat := by bv_omega
  have hd : decode (.sequencer s.stageWord (blockWord s.dblk)) = .error (.noOperationAtStage s.stage) := by
    have hw : stageCode s.stageWord = s.stage := stageCode_stageWord _ _
    rw [decode, decodeStage_of_no_code _ _ (by rwa [hw]), hw]
  rw [sequencerStep_of_decode_error hd] at h
  cases h

theorem sequencerTurn_effect_of_next {s t : State} (h : sequencerTurn s = .next t) : TurnEffect s t := by
  cases hb : s.busy with
  | true =>
    rw [sequencerTurn_of_busy hb] at h
    obtain ⟨h0, h8⟩ := stage_of_sequencerStep_next h
    obtain ⟨t', ht', e⟩ := sequencerStep_effect h0 h8
    obtain rfl : t' = t := Host.Outcome.next.inj (ht'.symm.trans h)
    exact .sequencer hb e
  | false =>
    rw [sequencerTurn_of_idle hb] at h
    cases h
    exact .same s

theorem takeTurn_effect_of_next {u : Turn} {s t : State} (h : takeTurn u s = .next t) : TurnEffect s t := by
  cases u with
  | access w =>
    obtain hw | ⟨a, v, hw⟩ := hostTurn_cases w s <;> cases hw.symm.trans h
    · exact hostRead_effect _ s
    · exact hostWrite_effect a v s
  | sequencer => exact sequencerTurn_effect_of_next h
  | reset => cases h; exact .reset

/-! ## The sequencer neither reads nor writes the model's own fields -/

/-- An outcome with the model's own fields of its state blanked. -/
def blockOutcome : Result → Result
  | .next t => .next (blockOf t)
  | .fault r => .fault r
  | .refused r => .refused r

theorem eq_next_of_blockOutcome {r : Result} {b : State} (h : blockOutcome r = .next b) :
    ∃ t, r = .next t ∧ blockOf t = b := by
  cases r with
  | next t => exact ⟨t, rfl, Host.Outcome.next.inj h⟩
  | fault _ => cases h
  | refused _ => cases h

theorem exec_blockOf {i : Instr} (h : i.ofSequencer = true) (s : State) :
    exec i (blockOf s) = blockOutcome (exec i s) := by
  cases i with
  | hrd | hwr | start | release => cases h
  | chkFrm =>
    simp only [exec, execChkFrm, apply_ite blockOutcome]
    rfl
  | _ => rfl

theorem runOps_blockOf {ops : List Instr} (h : ops.all Instr.ofSequencer = true) (s : State) :
    runOps ops (blockOf s) = blockOutcome (runOps ops s) := by
  induction ops generalizing s with
  | nil => rfl
  | cons i is ih =>
    obtain ⟨hi, his⟩ := Bool.and_eq_true_iff.mp h
    obtain ⟨t, ht⟩ := exec_next i s
    simp only [runOps, exec_blockOf hi, ht, blockOutcome]
    exact ih his t

theorem advanceStage_blockOf (code : BitVec 4) (s : State) :
    advanceStage code (blockOf s) = blockOf (advanceStage code s) := by
  simp only [advanceStage, apply_ite blockOf]
  rfl

theorem sequencerStep_blockOf (s : State) : sequencerStep (blockOf s) = blockOutcome (sequencerStep s) := by
  cases hd : decode (.sequencer s.stageWord (blockWord s.dblk)) with
  | error e => rw [sequencerStep_of_decode_error hd, sequencerStep_of_decode_error (s := blockOf s) hd]; rfl
  | ok ops =>
    obtain ⟨t, ht⟩ := runOps_next ops s
    have hblock : runOps ops (blockOf s) = .next (blockOf t) := by
      rw [runOps_blockOf (decodeStage_ofSequencer hd), ht]
      rfl
    rw [sequencerStep_of_decode hd ht, sequencerStep_of_decode (s := blockOf s) hd hblock, advanceStage_blockOf]
    rfl

theorem sequencerTurn_blockOf (s : State) : sequencerTurn (blockOf s) = blockOutcome (sequencerTurn s) := by
  cases hb : s.busy with
  | true =>
    rw [sequencerTurn_of_busy hb, sequencerTurn_of_busy (s := blockOf s) hb]
    exact sequencerStep_blockOf s
  | false =>
    rw [sequencerTurn_of_idle hb, sequencerTurn_of_idle (s := blockOf s) hb]
    rfl

/-- From states with the same registers the sequencer's turn leaves the same registers. -/
theorem sequencerTurn_congr {s s' u : State} (h : blockOf s = blockOf s') (hu : sequencerTurn s' = .next u) :
    ∃ t, sequencerTurn s = .next t ∧ blockOf t = blockOf u := by
  apply eq_next_of_blockOutcome
  rw [← sequencerTurn_blockOf, h, sequencerTurn_blockOf, hu]
  rfl

theorem busy_congr {s s' : State} (h : blockOf s = blockOf s') : s.busy = s'.busy := by
  have hb : (blockOf s).busy = (blockOf s').busy := by rw [h]
  exact hb

/-! ## Turns one after the other (R50) -/

theorem runTurns_cons_of_next {x : Turn} {s t : State} (xs : List Turn) (h : takeTurn x s = .next t) :
    runTurns (x :: xs) s = runTurns xs t := by
  simp only [runTurns, h]

theorem runTurns_cons_next {x : Turn} {xs : List Turn} {s u : State} (h : runTurns (x :: xs) s = .next u) :
    ∃ t, takeTurn x s = .next t ∧ runTurns xs t = .next u := by
  cases ht : takeTurn x s with
  | next t => exact ⟨t, rfl, (runTurns_cons_of_next xs ht).symm.trans h⟩
  | fault _ => simp only [runTurns, ht, reduceCtorEq] at h
  | refused _ => simp only [runTurns, ht, reduceCtorEq] at h

theorem runTurns_keeps_sequencerOk {q : List Turn} {s u : State} (h : SequencerOk s) (hu : runTurns q s = .next u) :
    SequencerOk u := by
  induction q generalizing s with
  | nil => cases hu; exact h
  | cons x xs ih =>
    obtain ⟨t, ht, hrest⟩ := runTurns_cons_next hu
    exact ih ((takeTurn_effect_of_next ht).keeps_sequencerOk h) hrest

/-- An idle sequencer stays idle through its own turns (R94). -/
theorem runTurns_sequencer_idle {q : List Turn} (hq : ∀ x ∈ q, x = .sequencer) {s : State} (h : s.busy = false) :
    runTurns q s = .next s := by
  induction q with
  | nil => rfl
  | cons x xs ih =>
    obtain rfl := hq x List.mem_cons_self
    rw [runTurns_cons_of_next (x := .sequencer) xs (sequencerTurn_of_idle h)]
    exact ih fun y hy => hq y (List.mem_cons_of_mem _ hy)

/-- A frame in flight after turns of the sequencer was in flight before them. -/
theorem busy_of_runTurns_sequencer {q : List Turn} (hq : ∀ x ∈ q, x = .sequencer) {s u : State}
    (hu : runTurns q s = .next u) (hb : u.busy = true) : s.busy = true := by
  by_contra hs
  rw [runTurns_sequencer_idle hq (Bool.eq_false_of_not_eq_true hs)] at hu
  cases hu
  exact hs hb

/-- The sequencer's turns of a list. -/
def sequencerTurns (q : List Turn) : List Turn := q.filter fun x => x == .sequencer

theorem eq_sequencer_of_mem_sequencerTurns (q : List Turn) : ∀ x ∈ sequencerTurns q, x = .sequencer :=
  fun _ hx => eq_of_beq (List.mem_filter.mp hx).2

/-- Turns without a reset simulate their sequencer turns alone, as long as the frame is in flight: a host access leaves
the registers (R46, R93), and a sequencer turn does to them the same on both sides. -/
theorem runTurns_simulates {q : List Turn} (hq : ∀ x ∈ q, x ≠ .reset) {s s' u : State}
    (h : blockOf s = blockOf s') (hu : runTurns (sequencerTurns q) s' = .next u) (hb : u.busy = true) :
    ∃ t, runTurns q s = .next t ∧ blockOf t = blockOf u := by
  induction q generalizing s s' with
  | nil => cases hu; exact ⟨s, rfl, h⟩
  | cons x xs ih =>
    have hxs : ∀ y ∈ xs, y ≠ .reset := fun y hy => hq y (List.mem_cons_of_mem _ hy)
    cases x with
    | access w =>
      have hbusy : s'.busy = true := busy_of_runTurns_sequencer (eq_sequencer_of_mem_sequencerTurns _) hu hb
      obtain ⟨t, ht, hblock⟩ := hostTurn_busy w ((busy_congr h).trans hbusy)
      obtain ⟨t', hrun, hblock'⟩ := ih hxs (hblock.trans h) hu
      exact ⟨t', (runTurns_cons_of_next (x := .access w) xs ht).trans hrun, hblock'⟩
    | sequencer =>
      obtain ⟨u', hturn, hrest⟩ := runTurns_cons_next hu
      obtain ⟨t, ht, hblock⟩ := sequencerTurn_congr h hturn
      obtain ⟨t', hrun, hblock'⟩ := ih hxs hblock hrest
      exact ⟨t', (runTurns_cons_of_next (x := .sequencer) xs ht).trans hrun, hblock'⟩
    | reset => exact absurd rfl (hq .reset List.mem_cons_self)

end Sys2Proof.Machine

namespace Sys2Proof.Proofs

open Sys2Proof.Machine

/-- Settles O11: each address is that of its register byte, and the bytes of a wider register make it up. -/
theorem everyAddressReadsItsRegister : Obligations.EveryAddressReadsItsRegister := by
  intro s
  refine ⟨rfl, rfl, ?_, rfl, rfl, rfl, ?_, rfl, rfl, rfl, rfl, fun i => s.peek_addr (.frame i),
    fun i => ⟨s.peek_addr (.key i), s.peek_addr (.iv i), s.peek_addr (.cblk i), s.peek_addr (.dblk i)⟩,
    s.peek_bound .vmin, s.peek_bound .vmax, s.peek_bound .imin, s.peek_bound .imax, s.peek_bound .emax,
    s.peek_bound .pmax, fun i => ?_, fun h i => readValue_eq i h⟩
  · exact (congrArg BitVec.toNat (s.peek_addr .stage)).trans (BitVec.toNat_setWidth_of_le (by decide))
  · exact (congrArg BitVec.toNat (s.peek_addr .duds)).trans (BitVec.toNat_setWidth_of_le (by decide))
  · rw [← bytes_append32 s.v[i]]
    exact congrArg₂ _ (congrArg₂ _ (congrArg₂ _ (s.peek_result i 3) (s.peek_result i 2)) (s.peek_result i 1))
      (s.peek_result i 0)

/-- Settles O12: a write is to the register byte of its address, or to none. -/
theorem hostWriteChangesOnlyItsByte : Obligations.HostWriteChangesOnlyItsByte := by
  intro a v s ha hr
  refine ⟨hostWrite a v s, rfl, ?_⟩
  cases hreg : regAt a with
  | none =>
    rw [hostWrite_reserved v s ha hreg]
    exact ⟨rfl, overwrite_none v _, fun _ _ => rfl, fun _ => rfl⟩
  | some r =>
    obtain rfl := (regAt_eq_some_iff a r).mp hreg
    rw [hostWrite_unlocked v ha hr hreg]
    refine ⟨s.writeReg_frame r v, ?_, fun b hb => s.peek_writeReg_ne v hb, fun hkey => ?_⟩
    · rw [s.peek_addr, State.peek_addr]
      exact s.readReg_writeReg_same r v
    · refine s.writeReg_key_of_ne v fun i hi => ?_
      subst hi
      have haddr : (Reg.key i).addr.toNat = 0x10 + i.val := Nat.mod_eq_of_lt (by omega)
      omega

/-- Settles O14. -/
theorem writingTwiceIsWritingOnce : Obligations.WritingTwiceIsWritingOnce :=
  fun a v s ha => ⟨hostWrite a v s, rfl, congrArg Host.Outcome.next (hostWrite_hostWrite v s ha)⟩

/-- Settles O19: a read touches the model's own fields only, and a write is dropped. -/
theorem noAccessDisturbsAFrameInFlight : Obligations.NoAccessDisturbsAFrameInFlight :=
  fun w _ h => hostTurn_busy w h

/-- Settles O52: every turn that answers a next state has one of the effects that keep the reserved bits. -/
theorem everyStepKeepsReservedBitsZero : Obligations.EveryStepKeepsReservedBitsZero := by
  intro s t h hstep
  obtain ⟨_, hturn⟩ | ⟨u, us, _, hturn⟩ := step_cases hstep
  · exact (sequencerTurn_effect_of_next hturn).keeps_reservedZero h
  · exact (takeTurn_effect_of_next hturn).keeps_reservedZero h

/-- Settles O60: by simulation, and once more for the turn after which the frame may have ended. -/
theorem interleavingChangesNoRegister : Obligations.InterleavingChangesNoRegister := by
  intro s u q hok _ hq hu hb
  obtain ⟨t, ht, hblock⟩ := runTurns_simulates hq rfl hu hb
  obtain ⟨u', hu', _⟩ := sequencerTurn_effect (runTurns_keeps_sequencerOk hok hu)
  obtain ⟨t', ht', hblock'⟩ := sequencerTurn_congr hblock hu'
  have hrun : runTurns (q ++ [.sequencer]) s = .next t' :=
    (runTurns_append [.sequencer] ht).trans (runTurns_cons_of_next (x := .sequencer) [] ht')
  exact ⟨t, t', u', ht, hblock, hrun, hu', hblock'⟩

/-- Settles O8. -/
theorem stepRunsTheDecodedOperations : Obligations.StepRunsTheDecodedOperations := by
  refine ⟨fun s w rest hs => step_of_schedule_cons hs, fun s ops hb hs hd => ?_, fun s ops rest hb hs hd => ?_⟩
  · obtain ⟨t, ht⟩ := runOps_next ops s
    refine ⟨t, ht, ?_⟩
    rw [step_of_schedule_nil hs, sequencerTurn_of_busy hb]
    exact sequencerStep_of_decode hd ht
  · obtain ⟨t, ht⟩ := runOps_next ops { s with schedule := rest }
    refine ⟨t, ht, (step_of_schedule_cons hs).trans ?_⟩
    exact (sequencerTurn_of_busy (s := { s with schedule := rest }) hb).trans
      (sequencerStep_of_decode (s := { s with schedule := rest }) hd ht)

/-- Settles O15. -/
theorem writeIsDroppedWhileReady : Obligations.WriteIsDroppedWhileReady :=
  fun _ v _ hr ha => congrArg Host.Outcome.next (hostWrite_locked v ha hr)

end Sys2Proof.Proofs
end

section
/-! PROOFS of the family 30_encoding.md: a host word is its three fields, the decoder selects the rows of
opcode_table.json that a selector matches, the encoder's selectors decode back, SETBOUND and LOADFRAME. -/

namespace Sys2Proof

/-! ## A host word is its three fields (R78) -/

theorem hostWord_fields (w : HostWord) : hostWord (hostIsWrite w) (hostAddr w) (hostData w) = w := by
  have hdir : bit (w.getLsbD 16) = w.extractLsb' 16 1 := by
    apply BitVec.eq_of_getLsbD_eq
    intro i hi
    obtain rfl : i = 0 := by omega
    simp [bit]
  rw [hostWord, hostIsWrite, hdir, hostAddr, hostData,
    BitVec.extractLsb'_append_extractLsb'_eq_extractLsb' (by rfl),
    BitVec.extractLsb'_append_extractLsb'_eq_extractLsb' (by rfl)]
  exact BitVec.extractLsb'_eq_self

theorem hostWord_inj {d d' : Bool} {a a' v v' : Byte} :
    hostWord d a v = hostWord d' a' v' ↔ d = d' ∧ a = a' ∧ v = v' := by
  refine ⟨fun h => ⟨?_, ?_, ?_⟩, fun ⟨hd, ha, hv⟩ => by rw [hd, ha, hv]⟩
  · simpa using congrArg hostIsWrite h
  · simpa using congrArg hostAddr h
  · simpa using congrArg hostData h

/-- A mask acts on each field by itself. -/
theorem hostWord_and (d d' : Bool) (a a' v v' : Byte) :
    hostWord d a v &&& hostWord d' a' v' = hostWord (d && d') (a &&& a') (v &&& v') := by
  have hdir : bit d &&& bit d' = bit (d && d') := BitVec.ofBool_and_ofBool
  rw [hostWord, hostWord, BitVec.and_append, BitVec.and_append, hdir, hostWord]

/-- A masked word compared with a pattern is compared field by field. -/
theorem and_hostWord_eq_iff (w : HostWord) (dm d : Bool) (am a vm v : Byte) :
    w &&& hostWord dm am vm = hostWord d a v ↔
      (hostIsWrite w && dm) = d ∧ hostAddr w &&& am = a ∧ hostData w &&& vm = v := by
  conv_lhs => rw [← hostWord_fields w, hostWord_and, hostWord_inj]

/-! ## The rows of the host operations by the fields of the word (R81) -/

/-- The mask of HRD and HWR keeps the direction. -/
theorem and_directionMask_eq_iff (w : HostWord) (d : Bool) :
    w &&& 0x10000 = hostWord d 0 0 ↔ hostIsWrite w = d := by
  have hmask : (0x10000 : HostWord) = hostWord true 0 0 := rfl
  rw [hmask, and_hostWord_eq_iff]
  simp

theorem and_one_eq_iff (v : Byte) (b : Bool) : v &&& 1 = (if b then 1 else 0) ↔ v.getLsbD 0 = b := by
  revert v b
  decide

/-- The mask of START and RELEASE keeps the direction, the address and bit 0 of the data. -/
theorem and_ctrlMask_eq_iff (w : HostWord) (b : Bool) :
    w &&& 0x1FF01 = hostWord true 0 (if b then 1 else 0) ↔
      hostIsWrite w = true ∧ hostAddr w = 0 ∧ (hostData w).getLsbD 0 = b := by
  have hmask : (0x1FF01 : HostWord) = hostWord true (BitVec.allOnes 8) 1 := rfl
  rw [hmask, and_hostWord_eq_iff, Bool.and_true, BitVec.and_allOnes, and_one_eq_iff]

/-- The access is START: a CTRL write of 1 in bit 0 with READY = 0 (R92). -/
def IsStart (w : HostWord) (ready : Bool) : Prop :=
  (hostIsWrite w = true ∧ hostAddr w = 0 ∧ (hostData w).getLsbD 0 = true) ∧ ready = false

/-- The access is RELEASE: a CTRL write of 0 in bit 0 with READY = 1 and DONE = 1 (R93). -/
def IsRelease (w : HostWord) (ready done : Bool) : Prop :=
  (hostIsWrite w = true ∧ hostAddr w = 0 ∧ (hostData w).getLsbD 0 = false) ∧ ready = true ∧ done = true

theorem selectedBy_hrd_iff (a v : Byte) (w : HostWord) (ready done : Bool) :
    (Instr.hrd a v).selectedBy (.host w ready done) = true ↔
      hostIsWrite w = false ∧ a = hostAddr w ∧ v = hostData w := by
  have hfits : (Instr.hrd a v).row.fits (.host w ready done) = true ↔ hostIsWrite w = false :=
    beq_iff_eq.trans (and_directionMask_eq_iff w false)
  simp only [Instr.selectedBy, Instr.rowSelected, Instr.condition, Instr.operandsOf, Bool.and_eq_true, beq_iff_eq,
    hfits, and_true]

theorem rowSelected_hwr_iff (a v : Byte) (w : HostWord) (ready done : Bool) :
    (Instr.hwr a v).rowSelected (.host w ready done) = true ↔
      hostIsWrite w = true ∧ a = hostAddr w ∧ v = hostData w := by
  have hfits : (Instr.hwr a v).row.fits (.host w ready done) = true ↔ hostIsWrite w = true :=
    beq_iff_eq.trans (and_directionMask_eq_iff w true)
  simp only [Instr.rowSelected, Instr.condition, Instr.operandsOf, Bool.and_eq_true, beq_iff_eq, hfits, and_true]

theorem selectedBy_start_iff (v : Byte) (w : HostWord) (ready done : Bool) :
    (Instr.start v).selectedBy (.host w ready done) = true ↔ IsStart w ready ∧ v = hostData w := by
  have hfits : (Instr.start v).row.fits (.host w ready done) = true ↔ _ :=
    beq_iff_eq.trans (and_ctrlMask_eq_iff w true)
  simp only [Instr.selectedBy, Instr.rowSelected, Instr.condition, Instr.operandsOf, Bool.and_eq_true, beq_iff_eq,
    hfits, Bool.not_eq_true', IsStart]

theorem selectedBy_release_iff (v : Byte) (w : HostWord) (ready done : Bool) :
    (Instr.release v).selectedBy (.host w ready done) = true ↔ IsRelease w ready done ∧ v = hostData w := by
  have hfits : (Instr.release v).row.fits (.host w ready done) = true ↔ _ :=
    beq_iff_eq.trans (and_ctrlMask_eq_iff w false)
  simp only [Instr.selectedBy, Instr.rowSelected, Instr.condition, Instr.operandsOf, Bool.and_eq_true, beq_iff_eq,
    hfits, IsRelease]

/-- HWR is every write that is neither START nor RELEASE. -/
theorem selectedBy_hwr_iff (a v : Byte) (w : HostWord) (ready done : Bool) :
    (Instr.hwr a v).selectedBy (.host w ready done) = true ↔
      hostIsWrite w = true ∧ ¬IsStart w ready ∧ ¬IsRelease w ready done ∧ a = hostAddr w ∧ v = hostData w := by
  have hsplit : (Instr.hwr a v).selectedBy (.host w ready done) = true ↔
      ((Instr.hwr a v).rowSelected (.host w ready done) = true ∧
        ¬(Instr.start v).selectedBy (.host w ready done) = true) ∧
        ¬(Instr.release v).selectedBy (.host w ready done) = true := by
    simp only [Instr.selectedBy, Bool.and_eq_true, Bool.not_eq_true', Bool.not_eq_true]
  rw [hsplit, rowSelected_hwr_iff, selectedBy_start_iff, selectedBy_release_iff]
  constructor
  · rintro ⟨⟨⟨hw, ha, hv⟩, hs⟩, hr⟩
    exact ⟨hw, fun h => hs ⟨h, hv⟩, fun h => hr ⟨h, hv⟩, ha, hv⟩
  · rintro ⟨hw, hs, hr, ha, hv⟩
    exact ⟨⟨⟨hw, ha, hv⟩, fun h => hs h.1⟩, fun h => hr h.1⟩

/-! ## What a host word decodes to (R60, R91) -/

theorem decodeHost_of_read {w : HostWord} (ready done : Bool) (h : hostIsWrite w = false) :
    decodeHost w ready done = .hrd (hostAddr w) (hostData w) := by
  simp only [decodeHost, h, Bool.false_eq_true, if_false]

theorem decodeHost_of_isStart {w : HostWord} {ready : Bool} (done : Bool) (h : IsStart w ready) :
    decodeHost w ready done = .start (hostData w) := by
  obtain ⟨⟨hw, ha, hv⟩, hr⟩ := h
  simp only [decodeHost, hw, ha, hv, hr, Bool.false_eq_true, if_true, if_false]

theorem decodeHost_of_isRelease {w : HostWord} {ready done : Bool} (h : IsRelease w ready done) :
    decodeHost w ready done = .release (hostData w) := by
  obtain ⟨⟨hw, ha, hv⟩, hr, hd⟩ := h
  simp only [decodeHost, hw, ha, hv, hr, hd, Bool.and_self, Bool.false_eq_true, if_true, if_false]

theorem decodeHost_of_otherWrite {w : HostWord} {ready done : Bool} (h : hostIsWrite w = true)
    (hs : ¬IsStart w ready) (hr : ¬IsRelease w ready done) :
    decodeHost w ready done = .hwr (hostAddr w) (hostData w) := by
  unfold decodeHost IsStart IsRelease at *
  split_ifs <;> simp_all

/-- A host word is a read, START, RELEASE, or any other write. -/
theorem decodeHost_cases (w : HostWord) (ready done : Bool) :
    hostIsWrite w = false ∨ IsStart w ready ∨ IsRelease w ready done ∨
      (hostIsWrite w = true ∧ ¬IsStart w ready ∧ ¬IsRelease w ready done) := by
  cases hostIsWrite w <;> tauto

theorem selectedBy_decodeHost (w : HostWord) (ready done : Bool) :
    (decodeHost w ready done).selectedBy (.host w ready done) = true := by
  obtain hw | hs | hr | ⟨hw, hs, hr⟩ := decodeHost_cases w ready done
  · rw [decodeHost_of_read _ _ hw, selectedBy_hrd_iff]
    exact ⟨hw, rfl, rfl⟩
  · rw [decodeHost_of_isStart _ hs, selectedBy_start_iff]
    exact ⟨hs, rfl⟩
  · rw [decodeHost_of_isRelease hr, selectedBy_release_iff]
    exact ⟨hr, rfl⟩
  · rw [decodeHost_of_otherWrite hw hs hr, selectedBy_hwr_iff]
    exact ⟨hw, hs, hr, rfl, rfl⟩

theorem eq_decodeHost_of_selectedBy {i : Instr} {w : HostWord} {ready done : Bool}
    (h : i.selectedBy (.host w ready done) = true) : i = decodeHost w ready done := by
  cases i with
  | hrd a v =>
    obtain ⟨hw, rfl, rfl⟩ := (selectedBy_hrd_iff _ _ _ _ _).mp h
    exact (decodeHost_of_read _ _ hw).symm
  | start v =>
    obtain ⟨hs, rfl⟩ := (selectedBy_start_iff _ _ _ _).mp h
    exact (decodeHost_of_isStart _ hs).symm
  | release v =>
    obtain ⟨hr, rfl⟩ := (selectedBy_release_iff _ _ _ _).mp h
    exact (decodeHost_of_isRelease hr).symm
  | hwr a v =>
    obtain ⟨hw, hs, hr, rfl, rfl⟩ := (selectedBy_hwr_iff _ _ _ _ _).mp h
    exact (decodeHost_of_otherWrite hw hs hr).symm
  | _ => cases h

/-- The host word of an instruction that a host word decodes to is that word. -/
theorem encode_decodeHost (w : HostWord) (ready done : Bool) :
    ∃ ready' done', encode (decodeHost w ready done) = .host w ready' done' := by
  obtain hw | hs | hr | ⟨hw, hs, hr⟩ := decodeHost_cases w ready done
  · rw [decodeHost_of_read _ _ hw]
    exact ⟨false, false, by rw [encode, ← hw, hostWord_fields]⟩
  · rw [decodeHost_of_isStart _ hs]
    obtain ⟨⟨hw, ha, -⟩, -⟩ := hs
    exact ⟨false, false, by rw [encode, ← hw, ← ha, hostWord_fields]⟩
  · rw [decodeHost_of_isRelease hr]
    obtain ⟨⟨hw, ha, -⟩, -⟩ := hr
    exact ⟨true, true, by rw [encode, ← hw, ← ha, hostWord_fields]⟩
  · rw [decodeHost_of_otherWrite hw hs hr]
    exact ⟨_, false, by rw [encode, ← hw, hostWord_fields]⟩

theorem wf_decodeHost (w : HostWord) (ready done : Bool) : (decodeHost w ready done).wf = true := by
  obtain hw | hs | hr | ⟨hw, hs, hr⟩ := decodeHost_cases w ready done
  · rw [decodeHost_of_read _ _ hw, Instr.wf]
  · rw [decodeHost_of_isStart _ hs]
    exact hs.1.2.2
  · rw [decodeHost_of_isRelease hr, Instr.wf, hr.1.2.2, Bool.not_false]
  · rw [decodeHost_of_otherWrite hw hs hr, Instr.wf]

/-! ## What a stage word and a block decode to (R81, R94) -/

/-- The operations of a stage word, none where it is refused. -/
def stageOps (w : StageWord) (b : BlockWord) : List Instr := (decodeStage w b).toOption.getD []

theorem eq_stageOps_of_decodeStage {w : StageWord} {b : BlockWord} {ops : List Instr} (h : decodeStage w b = .ok ops) :
    ops = stageOps w b := by
  simp only [stageOps, h, Except.toOption, Option.getD_some]

theorem blockAux_auxBlock (n : BitVec 2) : blockAux (auxBlock n) = n := by
  revert n
  decide

/-- The block mask of BM.AUX keeps bits 65:64 (R81). -/
theorem and_auxBlock_three (b : BlockWord) : b &&& auxBlock 3 = auxBlock (blockAux b) := by
  have hthree : (3 : BitVec 2) = BitVec.allOnes 2 := rfl
  apply BitVec.eq_of_getLsbD_eq
  intro i hi
  simp only [auxBlock, blockAux, hthree, BitVec.getLsbD_and, BitVec.getLsbD_shiftLeft, BitVec.truncate_eq_setWidth,
    BitVec.getLsbD_setWidth, BitVec.getLsbD_allOnes, BitVec.getLsbD_extractLsb', hi, decide_true, Bool.true_and]
  by_cases h64 : i < 64
  · simp only [h64, decide_true, Bool.not_true, Bool.false_and, Bool.and_false]
  · rw [Nat.add_sub_of_le (Nat.le_of_not_lt h64)]
    simp only [h64, decide_false, Bool.not_false, Bool.true_and]
    ac_rfl

/-- Of the block a decoded step depends on the aux selector only. -/
theorem stageOps_eq_of_blockAux (w : StageWord) (b : BlockWord) :
    stageOps w b = stageOps w (auxBlock (blockAux b)) := by
  simp only [stageOps, decodeStage, bmOps, blockAux_auxBlock]

theorem blockWord_and_zero (b : BlockWord) : b &&& 0 = 0 := BitVec.and_zero

/-- Of the block a row's fixed bits are the aux selector or none. -/
theorem fits_eq_of_blockAux (i : Instr) (w : StageWord) (b : BlockWord) :
    i.row.fits (.sequencer w b) = i.row.fits (.sequencer w (auxBlock (blockAux b))) := by
  cases i with
  | bmAux0 | bmAux1 | bmAux2 | bmAux3 =>
    simp only [Instr.row, bmAuxRow, TableRow.fits, and_auxBlock_three, blockAux_auxBlock]
  | _ => simp only [Instr.row, bmRow, scRow, TableRow.fits, blockWord_and_zero]

theorem ofSequencer_of_mem_stageOps {i : Instr} {w : StageWord} {b : BlockWord} (h : i ∈ stageOps w b) :
    i.ofSequencer = true := by
  cases hd : decodeStage w b with
  | ok ops =>
    rw [← eq_stageOps_of_decodeStage hd] at h
    exact List.all_eq_true.mp (decodeStage_ofSequencer hd) i h
  | error e =>
    simp only [stageOps, hd, Except.toOption, Option.getD_none, List.not_mem_nil] at h

/-- R94's table of steps against the rows of opcode_table.json, at every stage word and every aux selector. -/
theorem mem_stageOps_auxBlock_iff (i : Instr) (w : StageWord) (n : BitVec 2) :
    i ∈ stageOps w (auxBlock n) ↔ i.row.fits (.sequencer w (auxBlock n)) = true := by
  cases i with
  | hrd | hwr | start | release =>
    exact ⟨fun h => absurd (ofSequencer_of_mem_stageOps h) Bool.false_ne_true,
      fun h => absurd h Bool.false_ne_true⟩
  | _ => revert w n; decide

theorem mem_stageOps_iff (i : Instr) (w : StageWord) (b : BlockWord) :
    i ∈ stageOps w b ↔ i.row.fits (.sequencer w b) = true := by
  rw [stageOps_eq_of_blockAux, fits_eq_of_blockAux, mem_stageOps_auxBlock_iff]

/-- A row has no condition and no operands at a sequencer selector. -/
theorem selectedBy_sequencer (i : Instr) (w : StageWord) (b : BlockWord) :
    i.selectedBy (.sequencer w b) = i.row.fits (.sequencer w b) := by
  have hsel : i.selectedBy (.sequencer w b) = i.rowSelected (.sequencer w b) := by
    cases i <;> rfl
  have hcond : i.condition (.sequencer w b) = true := by
    cases i <;> rfl
  have hops : i.operandsOf (.sequencer w b) = true := by
    cases i <;> rfl
  rw [hsel, Instr.rowSelected, hcond, hops, Bool.and_true, Bool.and_true]

/-! ## The encoder's selectors -/

theorem encode_wf (i : Instr) : (encode i).wf = true := by
  cases i <;> rfl

/-- The encoder's selector selects the instruction. A plain write is neither START, as `READY` is bit 0 of its data, nor
RELEASE, as `DONE` is 0. -/
theorem encode_selectedBy {i : Instr} (h : i.wf = true) : i.selectedBy (encode i) = true := by
  cases i with
  | hrd a v =>
    rw [encode, selectedBy_hrd_iff, hostIsWrite_hostWord, hostAddr_hostWord, hostData_hostWord]
    exact ⟨rfl, rfl, rfl⟩
  | hwr a v =>
    rw [encode, selectedBy_hwr_iff, IsStart, IsRelease, hostIsWrite_hostWord, hostAddr_hostWord, hostData_hostWord]
    refine ⟨rfl, fun ⟨⟨_, _, hone⟩, hzero⟩ => ?_, fun ⟨_, _, hdone⟩ => Bool.false_ne_true hdone, rfl, rfl⟩
    exact Bool.false_ne_true (hzero.symm.trans hone)
  | start v =>
    rw [encode, selectedBy_start_iff, IsStart, hostIsWrite_hostWord, hostAddr_hostWord, hostData_hostWord]
    exact ⟨⟨⟨rfl, rfl, h⟩, rfl⟩, rfl⟩
  | release v =>
    rw [encode, selectedBy_release_iff, IsRelease, hostIsWrite_hostWord, hostAddr_hostWord, hostData_hostWord]
    exact ⟨⟨⟨rfl, rfl, Bool.not_eq_true' _ ▸ h⟩, rfl, rfl⟩, rfl⟩
  | _ => rfl

end Sys2Proof

namespace Sys2Proof.Machine

/-! ## SETBOUND (R80) -/

/-- Unlocked, a write turn at the address of a register byte other than CTRL writes that byte (R91). -/
theorem takeTurn_write_register {r : Reg} (v : Byte) {s : State} (hr : r.addr ≠ 0) (h : s.ready = false) :
    takeTurn (turnWrite r.addr v) s = .next (s.writeReg r v) := by
  rw [takeTurn_turnWrite, hostWrite_unlocked v hr h (regAt_addr r)]

theorem addr_bound_ne_zero (b : Bound) (high : Bool) : (Reg.bound b high).addr ≠ 0 := by
  cases b <;> cases high <;> decide

theorem setBound_eq (b : Bound) (x : Word16) :
    setBound b x =
      [turnWrite (Reg.bound b false).addr (byte16 x false), turnWrite (Reg.bound b true).addr (byte16 x true)] := rfl

/-- Writing both bytes of a bound leaves nothing of what it held (R42). -/
theorem putByte16_both (r x : Word16) : putByte16 (putByte16 r false (byte16 x false)) true (byte16 x true) = x := by
  have hlow : (putByte16 r false (byte16 x false)).extractLsb' 0 8 = x.extractLsb' 0 8 :=
    byte16_putByte16_same r false (byte16 x false)
  have hhigh : byte16 x true = x.extractLsb' 8 8 := rfl
  rw [putByte16, if_pos rfl, hlow, hhigh]
  exact BitVec.extractLsb'_append_extractLsb'

theorem State.setBoundByte_frame (s : State) (b : Bound) (high : Bool) (v : Byte) :
    s.setBoundByte b high v = { s with
      vmin := (s.setBoundByte b high v).vmin, vmax := (s.setBoundByte b high v).vmax
      imin := (s.setBoundByte b high v).imin, imax := (s.setBoundByte b high v).imax
      emax := (s.setBoundByte b high v).emax, pmax := (s.setBoundByte b high v).pmax } := by
  cases b <;> rfl

theorem runTurns_setBound (b : Bound) (x : Word16) {s : State} (h : s.ready = false) :
    runTurns (setBound b x) s =
      .next ((s.setBoundByte b false (byte16 x false)).setBoundByte b true (byte16 x true)) := by
  rw [setBound_eq, runTurns_cons_of_next _ (takeTurn_write_register _ (addr_bound_ne_zero b false) h),
    runTurns_cons_of_next _
      (takeTurn_write_register _ (addr_bound_ne_zero b true) ((s.writeReg_ready _ _).trans h))]
  rfl

/-! ## LOADFRAME (R80) -/

theorem addr_frame_ne_zero (i : Fin 26) : (Reg.frame i).addr ≠ 0 := by
  revert i
  decide

/-- FRAME with the bytes of a list in order from index `k` on (R27). -/
def framePut (f : FrameBytes) (k : Nat) (bs : List Byte) : FrameBytes :=
  Vector.ofFn fun i => if k ≤ i.val then (bs[i.val - k]?).getD f[i] else f[i]

theorem framePut_getElem (f : FrameBytes) (k : Nat) (bs : List Byte) (i : Fin 26) :
    (framePut f k bs)[i] = if k ≤ i.val then (bs[i.val - k]?).getD f[i] else f[i] :=
  Vector.getElem_ofFn i.isLt

theorem framePut_nil (f : FrameBytes) (k : Nat) : framePut f k [] = f := by
  apply Vector.ext
  intro i hi
  have hget := framePut_getElem f k [] ⟨i, hi⟩
  rwa [List.getElem?_nil, Option.getD_none, ite_self] at hget

/-- The first byte goes to index `k`, the others from the next index on. -/
theorem framePut_cons (f : FrameBytes) {k : Nat} (hk : k < 26) (b : Byte) (bs : List Byte) :
    framePut f k (b :: bs) = framePut (f.set k b) (k + 1) bs := by
  apply Vector.ext
  intro i hi
  have hleft := framePut_getElem f k (b :: bs) ⟨i, hi⟩
  have hright := framePut_getElem (f.set k b) (k + 1) bs ⟨i, hi⟩
  refine hleft.trans (Eq.trans ?_ hright.symm)
  simp only [Fin.getElem_fin, Vector.getElem_set]
  rcases Nat.lt_trichotomy i k with hlt | rfl | hgt
  · rw [if_neg (by omega), if_neg (by omega), if_neg (by omega)]
  · simp
  · have hidx : i - k = i - (k + 1) + 1 := by omega
    rw [if_pos (by omega), if_pos (by omega), if_neg (by omega), hidx, List.getElem?_cons_succ]

theorem runTurns_writeBytes_frame (bs : List Byte) {k : Nat} {s : State} (h : s.ready = false)
    (hk : k + bs.length ≤ 26) :
    runTurns (writeBytes (0x20 + k) bs) s = .next { s with frame := framePut s.frame k bs } := by
  induction bs generalizing k s with
  | nil => rw [framePut_nil, writeBytes, runTurns]
  | cons b bs ih =>
    rw [List.length_cons] at hk
    have hk' : k < 26 := by omega
    have hwrite : takeTurn (turnWrite (BitVec.ofNat 8 (0x20 + k)) b) s = .next (s.writeReg (.frame ⟨k, hk'⟩) b) :=
      takeTurn_write_register (r := .frame ⟨k, hk'⟩) b (addr_frame_ne_zero _) h
    have hrest := ih (k := k + 1) (s := s.writeReg (.frame ⟨k, hk'⟩) b) ((s.writeReg_ready _ b).trans h) (by omega)
    rw [writeBytes, runTurns_cons_of_next _ hwrite, framePut_cons _ hk']
    exact hrest

theorem State.ready_with_frame (s : State) (f : FrameBytes) : { s with frame := f }.ready = s.ready := rfl

/-- FLEN keeps the five low bits of what is written (R91). -/
theorem takeTurn_write_flen (v : Byte) {s : State} (h : s.ready = false) :
    takeTurn (turnWrite 0x04 v) s = .next { s with flen := v &&& 0x1F } :=
  takeTurn_write_register (r := .flen) v (by decide) h

theorem runTurns_loadFrame (bs : List Byte) {s : State} (h : s.ready = false) (hlen : bs.length ≤ 26) :
    runTurns (loadFrame bs) s =
      .next { s with frame := framePut s.frame 0 bs, flen := BitVec.ofNat 8 bs.length &&& 0x1F } := by
  have hbytes := runTurns_writeBytes_frame bs (k := 0) h (by omega)
  have hlength := takeTurn_write_flen (BitVec.ofNat 8 bs.length) ((s.ready_with_frame (framePut s.frame 0 bs)).trans h)
  rw [loadFrame, runTurns_append _ hbytes, runTurns_cons_of_next [] hlength, runTurns]

/-- A length that fits FRAME fits the five bits of FLEN (R23). -/
theorem toNat_and_flenMask {n : Nat} (h : n ≤ 26) : (BitVec.ofNat 8 n &&& 0x1F).toNat = n := by
  have hmask : (0x1F : Byte).toNat = 2 ^ 5 - 1 := rfl
  rw [BitVec.toNat_and, hmask, Nat.and_two_pow_sub_one_eq_mod, BitVec.toNat_ofNat]
  omega

end Sys2Proof.Machine

namespace Sys2Proof.Proofs

open Sys2Proof.Machine

/-- Settles O6: a host word decodes to one operation, and its fields decide which; the operations of a stage word are a
check of the table. -/
theorem decoderSelectsExactlyTheRowsThatMatch : Obligations.DecoderSelectsExactlyTheRowsThatMatch := by
  intro sel ops h i
  cases sel with
  | host w ready done =>
    obtain rfl : [decodeHost w ready done] = ops := Except.ok.inj h
    rw [List.mem_singleton]
    exact ⟨fun hi => hi ▸ selectedBy_decodeHost w ready done, eq_decodeHost_of_selectedBy⟩
  | sequencer w b => rw [eq_stageOps_of_decodeStage h, mem_stageOps_iff, selectedBy_sequencer]

/-- Settles O4: the encoder's selector decodes, and to all that it selects, the instruction among them (O6). -/
theorem decodingAnEncodedInstructionGivesItBack : Obligations.DecodingAnEncodedInstructionGivesItBack := by
  intro i hwf
  obtain ⟨ops, hops⟩ := onlyStagesOneToEightDecode.1 (encode i) (encode_wf i)
  have hmem : i ∈ ops := (decoderSelectsExactlyTheRowsThatMatch _ ops hops i).mpr (encode_selectedBy hwf)
  split
  case h_1 w ready done henc =>
    rw [henc] at hops
    obtain rfl : [decodeHost w ready done] = ops := Except.ok.inj hops
    rw [decode, ← List.mem_singleton.mp hmem]
  case h_2 w b henc => exact ⟨ops, henc ▸ hops, hmem⟩

/-- Settles O5. -/
theorem encodingADecodedHostWordGivesItBack : Obligations.EncodingADecodedHostWordGivesItBack :=
  fun w ready done => ⟨wf_decodeHost w ready done, encode_decodeHost w ready done⟩

/-- Settles O20: each of the two writes is to one byte of the bound. -/
theorem setBoundStoresTheValue : Obligations.SetBoundStoresTheValue := by
  intro b x s h
  refine ⟨_, runTurns_setBound b x h, ?_, fun c hc => ?_, ?_⟩
  · rw [State.setBoundByte_bound, if_pos rfl, State.setBoundByte_bound, if_pos rfl, putByte16_both]
  · rw [State.setBoundByte_bound, if_neg hc, State.setBoundByte_bound, if_neg hc]
  · rw [State.setBoundByte_frame, State.setBoundByte_frame s]

/-- Settles O21: FRAME holds the list from index 0 on. -/
theorem loadFrameStoresTheFrame : Obligations.LoadFrameStoresTheFrame := by
  intro bs s h hlen
  refine ⟨_, runTurns_loadFrame bs h hlen, rfl, toNat_and_flenMask hlen, fun i => ?_⟩
  rw [framePut_getElem, if_pos i.val.zero_le, Nat.sub_zero]
  split
  case isTrue hi => rw [List.getElem?_eq_getElem hi, Option.getD_some]
  case isFalse hi => rw [List.getElem?_eq_none (Nat.le_of_not_lt hi), Option.getD_none]

/-- Settles O3: fixed words. -/
theorem wordsOfTheSpecDecodeAsWritten : Obligations.WordsOfTheSpecDecodeAsWritten := by
  unfold Obligations.WordsOfTheSpecDecodeAsWritten
  decide

end Sys2Proof.Proofs
end

section
/-! PROOFS of the family 40_sequencer_and_frame.md: the host's accesses address by address, the frame operations, the
order of the stages, and what a frame's transaction leaves. -/

namespace Sys2Proof.Machine

/-! ## Kinds of addresses (R41, R47, R48) -/

/-- The reserved addresses (R48). -/
theorem regAt_eq_none_iff (a : Byte) :
    regAt a = none ↔ (0x0B ≤ a.toNat ∧ a.toNat ≤ 0x0F) ∨ (0x3A ≤ a.toNat ∧ a.toNat ≤ 0x3F) ∨
      (0x7C ≤ a.toNat ∧ a.toNat ≤ 0x7F) ∨ 0xA0 ≤ a.toNat := by
  revert a
  decide

theorem key_addr_iff (r : Reg) : (∃ i, r = .key i) ↔ 0x10 ≤ r.addr.toNat ∧ r.addr.toNat ≤ 0x1F := by
  cases r with
  | key i => exact iff_of_true ⟨i, rfl⟩ (by revert i; decide)
  | frame i => exact iff_of_false (by simp) (by revert i; decide)
  | iv i => exact iff_of_false (by simp) (by revert i; decide)
  | cblk i => exact iff_of_false (by simp) (by revert i; decide)
  | dblk i => exact iff_of_false (by simp) (by revert i; decide)
  | bound b high => exact iff_of_false (by simp) (by cases b <;> cases high <;> decide)
  | result i k => exact iff_of_false (by simp) (by revert i k; decide)
  | _ => exact iff_of_false (by simp) (by decide)

/-- The addresses of the per-frame registers (R47). -/
theorem perFrame_iff (r : Reg) :
    r.perFrame = true ↔ r.addr.toNat = 0x01 ∨ r.addr.toNat = 0x02 ∨ (0x06 ≤ r.addr.toNat ∧ r.addr.toNat ≤ 0x0A) ∨
      (0x40 ≤ r.addr.toNat ∧ r.addr.toNat ≤ 0x6F) ∨ 0x80 ≤ r.addr.toNat := by
  cases r with
  | key i => revert i; decide
  | frame i => revert i; decide
  | iv i => revert i; decide
  | cblk i => revert i; decide
  | dblk i => revert i; decide
  | bound b high => cases b <;> cases high <;> decide
  | result i k => revert i k; decide
  | _ => decide

/-! ## A read, by the kind of its address (R90) -/

theorem hostRead_reserved {a : Byte} (s : State) (h : regAt a = none) : hostRead a s = { s with rdata := 0 } := by
  simp only [hostRead, h]

/-- A register that is not per-frame is read exactly, in flight as well (R47). -/
theorem hostRead_not_perFrame {r : Reg} (s : State) (h : r.perFrame = false) :
    hostRead r.addr s = { s with rdata := s.readReg r } := by
  simp only [hostRead, regAt_addr, h, Bool.and_false, Bool.false_eq_true, if_false]

/-- An unspecified byte has no bit above the register's width but those that are exact (U1). -/
theorem hostRead_unspecified_and {r : Reg} {s : State} {m : Byte} (hb : s.busy = true) (hp : r.perFrame = true)
    (hw : r.widthMask &&& m = 0) (he : r.exactMask &&& m = 0) : (hostRead r.addr s).rdata &&& m = 0 := by
  rw [hostRead_unspecified s (regAt_addr r) hb hp]
  apply BitVec.eq_of_getLsbD_eq
  intro i hi
  have hwi := congrArg (BitVec.getLsbD · i) hw
  have hei := congrArg (BitVec.getLsbD · i) he
  simp only [BitVec.getLsbD_and, BitVec.getLsbD_or] at hwi hei ⊢
  cases hm : m.getLsbD i with
  | false => simp
  | true =>
    rw [hm, Bool.and_true] at hwi hei
    simp [hwi, hei]

/-! ## A write, by its address (R91 to R93) -/

theorem exec_hwr_register {r : Reg} (v : Byte) {s : State} (ha : r.addr ≠ 0) (hr : s.ready = false) :
    exec (.hwr r.addr v) s = .next (s.writeReg r v) :=
  congrArg Host.Outcome.next (hostWrite_unlocked v ha hr (regAt_addr r))

theorem addr_key_ne_zero (i : Fin 16) : (Reg.key i).addr ≠ 0 := by
  revert i
  decide

theorem hostWrite_start {v : Byte} {s : State} (hv : v.getLsbD 0 = true) (hr : s.ready = false) :
    hostWrite 0 v s = startEffect s := by
  simp only [hostWrite, hv, hr, Bool.not_false, Bool.and_true, if_true]

theorem hostWrite_release {v : Byte} {s : State} (hv : v.getLsbD 0 = false) (hr : s.ready = true)
    (hd : s.done = true) : hostWrite 0 v s = releaseEffect s := by
  simp only [hostWrite, hv, hr, hd, Bool.not_false, Bool.and_true, Bool.false_and, Bool.false_eq_true, if_false,
    if_true]

/-- A second start has no effect (R93). -/
theorem hostWrite_ctrl_one_ready {v : Byte} {s : State} (hv : v.getLsbD 0 = true) (hr : s.ready = true) :
    hostWrite 0 v s = s := by
  simp only [hostWrite, hv, hr, Bool.not_true, Bool.and_false, Bool.false_and, Bool.false_eq_true, if_false, if_true]

/-- A zero written to CTRL has no effect unless a frame is done (R93). -/
theorem hostWrite_ctrl_zero_not_done {v : Byte} {s : State} (hv : v.getLsbD 0 = false)
    (h : s.ready = false ∨ s.done = false) : hostWrite 0 v s = s := by
  have hno : (s.ready && s.done) = false := by rw [Bool.and_eq_false_iff]; exact h
  simp only [hostWrite, hv, Bool.false_and, Bool.not_false, Bool.true_and, hno, Bool.false_eq_true, if_false, if_true]

/-! ## Bits of a register under a mask -/

/-- Writing a bit outside a mask leaves the masked bits. -/
theorem putBit_and {n : Nat} (r : BitVec n) {m : BitVec n} {i : Nat} (b : Bool) (hm : m.getLsbD i = false) :
    putBit r i b &&& m = r &&& m := by
  apply BitVec.eq_of_getLsbD_eq
  intro j hj
  rw [BitVec.getLsbD_and, BitVec.getLsbD_and, putBit_getLsbD]
  by_cases hij : j = i
  · simp [hij, hm]
  · simp [hij]

theorem putPair_and {n : Nat} (r : BitVec n) {m : BitVec n} {i : Nat} (v : BitVec 2) (hm : m.getLsbD i = false)
    (hm' : m.getLsbD (i + 1) = false) : putPair r i v &&& m = r &&& m := by
  rw [putPair, putBit_and _ _ hm', putBit_and _ _ hm]

/-! ## The frame operations (R96 to R98, R105) -/

/-- The length CHKFRM and LDBLK read is the register's low five bits (R23). -/
theorem frameLen_eq_lengthOf (s : State) : s.frameLen = lengthOf s := by
  rw [State.frameLen, BitVec.extractLsb'_toNat, Nat.shiftRight_zero, lengthOf]

/-- The cause a frame that fails the check is rejected with: the length is tested first (R96, R203). -/
def causeOf (s : State) : RejectCause := if lengthOf s < 11 ∨ 26 < lengthOf s then .length else .marker

theorem exec_chkFrm (s : State) :
    exec .chkFrm s =
      if lengthOf s < 11 ∨ 26 < lengthOf s then .next (raiseReject .length s)
      else if s.frame[0] ≠ 0xE1 ∨ s.frame[1] ≠ 0x02 ∨ s.frame[2] ≠ 0x10 then .next (raiseReject .marker s)
      else .next (s.setStage 2) := by
  rw [← frameLen_eq_lengthOf]
  rfl

theorem exec_chkFrm_accepted {s : State} (h : FrameAccepted s) : exec .chkFrm s = .next (s.setStage 2) := by
  obtain ⟨hmin, hmax, h0, h1, h2⟩ := h
  rw [exec_chkFrm, if_neg (by omega), if_neg (by simp [h0, h1, h2])]

theorem exec_chkFrm_rejected {s : State} (h : ¬FrameAccepted s) :
    exec .chkFrm s = .next (raiseReject (causeOf s) s) := by
  rw [exec_chkFrm, causeOf]
  split
  case isTrue => rfl
  case isFalse hlen =>
    rw [if_pos]
    by_contra hmarker
    simp only [not_or, ne_eq, not_not] at hmarker
    exact h ⟨by omega, by omega, hmarker⟩

/-- What FIN makes of the state (R105). -/
def finEffect (s : State) : State := ((s.setAccept (s.rej == 0)).setDone true).setStage 0

theorem exec_fin (s : State) : exec .fin s = .next (finEffect s) := rfl

/-! ## The order of the stages (R94, R95) -/

/-- CHK branches, FIN sets DONE and ends, every other stage goes to the next (R94). -/
theorem SequencerEffect.stage_cases {s t : State} (e : SequencerEffect s t) :
    (s.stage = 1 ∧ (t.stage = 2 ∨ t.stage = 8)) ∨ (s.stage = 8 ∧ t.stage = 0 ∧ t.done = true) ∨
      (2 ≤ s.stage.toNat ∧ s.stage.toNat ≤ 7 ∧ t.stage = s.stage + 1) := by
  cases e with
  | reject _ h => exact Or.inl ⟨h, Or.inr rfl⟩
  | check h => exact Or.inl ⟨h, Or.inl rfl⟩
  | fin h => exact Or.inr (Or.inl ⟨h, rfl, by simp⟩)
  | genIv h | ldBlk _ h | decr _ _ h | unpack h | alarm h | codes _ _ h | classify _ _ h =>
    rw [h]
    exact Or.inr (Or.inr ⟨by decide, by decide, rfl⟩)

/-- Past CHK the next stage is the table's (R94). -/
theorem SequencerEffect.stage_eq {s t : State} (e : SequencerEffect s t) (h1 : s.stage ≠ 1) :
    t.stage = if s.stage = 8 then 0 else s.stage + 1 := by
  obtain ⟨h, _⟩ | ⟨h, ht, _⟩ | ⟨_, h7, ht⟩ := e.stage_cases
  · exact absurd h h1
  · rw [if_pos h, ht]
  · rw [if_neg (by bv_omega), ht]

/-- A step is FIN's and sets DONE, or moves STAGE forward (R95). -/
theorem SequencerEffect.progress {s t : State} (e : SequencerEffect s t) :
    (t.stage = 0 ∧ t.done = true) ∨ s.stage.toNat + 1 ≤ t.stage.toNat := by
  obtain ⟨h, ht⟩ | ⟨_, hend⟩ | ⟨_, h7, ht⟩ := e.stage_cases
  · exact Or.inr (by bv_omega)
  · exact Or.inl hend
  · exact Or.inr (by bv_omega)

theorem SequencerEffect.schedule_eq {s t : State} (e : SequencerEffect s t) : t.schedule = s.schedule := by
  cases e with
  | unpack _ hu => obtain ⟨_, _, _, rfl⟩ := hu.frame; rfl
  | _ => rfl

/-- The frame is done, or in flight at STAGE code `n` or a later one. -/
structure DoneOrPast (n : Nat) (s : State) : Prop where
  ok : SequencerOk s
  past : (s.done = true ∧ s.stage = 0) ∨ (s.busy = true ∧ n ≤ s.stage.toNat)

theorem doneOrPast_of_busy {s : State} (h : SequencerOk s) (hb : s.busy = true) : DoneOrPast 1 s := by
  have ⟨_, hbusy, _⟩ := h
  have h0 := hbusy.mp hb
  exact ⟨h, Or.inr ⟨hb, by bv_omega⟩⟩

theorem DoneOrPast.mono {m n : Nat} {s : State} (h : DoneOrPast n s) (hmn : m ≤ n) : DoneOrPast m s :=
  ⟨h.ok, h.past.imp_right fun ⟨hb, hn⟩ => ⟨hb, hmn.trans hn⟩⟩

theorem DoneOrPast.stage_eq_zero {n : Nat} {s : State} (h : DoneOrPast n s) (hd : s.done = true) : s.stage = 0 :=
  h.ok.stage_eq_zero (by simp [State.busy, hd])

/-- No stage is past FIN. -/
theorem DoneOrPast.done {n : Nat} {s : State} (h : DoneOrPast n s) (hn : 9 ≤ n) : s.done = true := by
  obtain ⟨⟨h8, _⟩, ⟨hd, _⟩ | ⟨_, hpast⟩⟩ := h
  · exact hd
  · omega

theorem DoneOrPast.sequencerTurn {n : Nat} {s : State} (h : DoneOrPast n s) :
    ∃ t, sequencerTurn s = .next t ∧ DoneOrPast (n + 1) t ∧ t.schedule = s.schedule := by
  obtain ⟨hok, ⟨hd, h0⟩ | ⟨hb, hn⟩⟩ := h
  · exact ⟨s, sequencerTurn_of_idle (by simp [State.busy, hd]), ⟨hok, Or.inl ⟨hd, h0⟩⟩, rfl⟩
  · obtain ⟨h8, hbusy, _⟩ := hok
    obtain ⟨t, ht, e⟩ := sequencerStep_effect (hbusy.mp hb) h8
    have hok' : SequencerOk t := e.keeps_sequencerOk hb
    refine ⟨t, (sequencerTurn_of_busy hb).trans ht, ⟨hok', ?_⟩, e.schedule_eq⟩
    obtain ⟨h0, hd⟩ | hforward := e.progress
    · exact Or.inl ⟨hd, h0⟩
    · obtain ⟨_, hbusy', _⟩ := hok'
      exact Or.inr ⟨hbusy'.mpr (by bv_omega), by omega⟩

theorem DoneOrPast.after_hostRead {n : Nat} {s : State} (h : DoneOrPast n s) (a : Byte) :
    DoneOrPast n (hostRead a s) := by
  obtain ⟨b, k, hread⟩ := hostRead_frame a s
  rw [hread]
  exact ⟨h.ok, h.past⟩

theorem runSteps_succ_of_next {s t : State} (k : Nat) (h : step s = .next t) : runSteps (k + 1) s = runSteps k t := by
  simp only [runSteps, h]

/-- With no turn scheduled every step is the sequencer's (R95). -/
theorem DoneOrPast.runSteps {n : Nat} {s : State} (h : DoneOrPast n s) (hs : s.schedule = []) (k : Nat) :
    ∃ t, runSteps k s = .next t ∧ DoneOrPast (n + k) t := by
  induction k generalizing n s with
  | zero => exact ⟨s, rfl, h⟩
  | succ k ih =>
    obtain ⟨t, ht, hpast, hsched⟩ := h.sequencerTurn
    obtain ⟨u, hu, hpast'⟩ := ih hpast (hsched.trans hs)
    exact ⟨u, (runSteps_succ_of_next k ((step_of_schedule_nil hs).trans ht)).trans hu, hpast'.mono (by omega)⟩

theorem DoneOrPast.runTurns_sequencer {n : Nat} {s : State} (h : DoneOrPast n s) (k : Nat) :
    ∃ t, runTurns (List.replicate k .sequencer) s = .next t ∧ DoneOrPast (n + k) t := by
  induction k generalizing n s with
  | zero => exact ⟨s, rfl, h⟩
  | succ k ih =>
    obtain ⟨t, ht, hpast, _⟩ := h.sequencerTurn
    obtain ⟨u, hu, hpast'⟩ := ih hpast
    exact ⟨u, (runTurns_cons_of_next (x := .sequencer) _ ht).trans hu, hpast'.mono (by omega)⟩

/-! ## WAITDONE (R80) -/

/-- The poll of a frame that is done ends WAITDONE. -/
theorem DoneOrPast.waitDone_of_done {n : Nat} {s : State} (h : DoneOrPast n s) (gaps : List Nat)
    (hd : s.done = true) :
    ∃ t, waitDone gaps s = .next t ∧ t.rdata.getLsbD 0 = true ∧ t.done = true ∧ t.stage = 0 := by
  have hpoll : waitDone gaps s = .next (hostRead 0x01 s) := by
    cases gaps with
    | nil => rw [waitDone, takeTurn_turnRead]
    | cons g gs => simp only [waitDone, takeTurn_turnRead, hostRead_status_done, hd, if_true]
  obtain ⟨b, k, hread⟩ := hostRead_frame 0x01 s
  refine ⟨_, hpoll, (hostRead_status_done s).trans hd, ?_⟩
  rw [hread]
  exact ⟨hd, h.stage_eq_zero hd⟩

/-- After a poll that returned 0 the sequencer takes its turns and WAITDONE goes on. -/
theorem waitDone_of_not_done {s u : State} {g : Nat} (gs : List Nat) (hd : s.done = false)
    (hu : runTurns (List.replicate g .sequencer) (hostRead 0x01 s) = .next u) :
    waitDone (g :: gs) s = waitDone gs u := by
  simp only [waitDone, takeTurn_turnRead, hostRead_status_done, hd, Bool.false_eq_true, if_false, hu]

/-- Polls with a gap of a turn or more each, one for every stage that is left, end with DONE = 1. -/
theorem DoneOrPast.waitDone {n : Nat} {s : State} (h : DoneOrPast n s) {gaps : List Nat} (hn : 9 ≤ n + gaps.length)
    (hgaps : ∀ g ∈ gaps, 1 ≤ g) :
    ∃ t, waitDone gaps s = .next t ∧ t.rdata.getLsbD 0 = true ∧ t.done = true ∧ t.stage = 0 := by
  induction gaps generalizing n s with
  | nil => exact h.waitDone_of_done [] (h.done hn)
  | cons g gs ih =>
    cases hd : s.done with
    | true => exact h.waitDone_of_done _ hd
    | false =>
      obtain ⟨u, hu, hpast⟩ := (h.after_hostRead 0x01).runTurns_sequencer g
      have hg := hgaps g List.mem_cons_self
      rw [List.length_cons] at hn
      obtain ⟨t, ht, hend⟩ := ih hpast (by omega) fun x hx => hgaps x (List.mem_cons_of_mem g hx)
      exact ⟨t, (waitDone_of_not_done gs hd hu).trans ht, hend⟩

/-! ## The alarm code of a 16-bit mask (R74, R166) -/

theorem eq_of_popcount_le_one {n : Nat} {r : BitVec n} (h : popcount r ≤ 1) {i j : Nat} (hi : r.getLsbD i = true)
    (hj : r.getLsbD j = true) : i = j := by
  have hmem : ∀ k, r.getLsbD k = true → k ∈ (List.range n).filter fun k => r.getLsbD k := fun k hk =>
    List.mem_filter.mpr ⟨List.mem_range.mpr (BitVec.lt_of_getLsbD hk), hk⟩
  have hi' := hmem i hi
  have hj' := hmem j hj
  rw [popcount, List.countP_eq_length_filter] at h
  have hpos := List.length_pos_of_mem hi'
  obtain ⟨a, ha⟩ := List.length_eq_one_iff.mp (Nat.le_antisymm h hpos)
  rw [ha, List.mem_singleton] at hi' hj'
  exact hi'.trans hj'.symm

/-- A mask of fewer than two bits is none or a single one. -/
theorem eq_two_pow_of_popcount_le_one {n : Nat} (h0 : n ≠ 0) (h : n < 2 ^ 32)
    (hc : popcount (BitVec.ofNat 32 n) ≤ 1) : ∃ k, n = 2 ^ k := by
  have hbit : ∀ j, n.testBit j = true → (BitVec.ofNat 32 n).getLsbD j = true := fun j hj => by
    have hj32 : j < 32 := (Nat.pow_lt_pow_iff_right (by decide)).mp ((Nat.ge_two_pow_of_testBit hj).trans_lt h)
    rw [BitVec.getLsbD_ofNat, hj, decide_eq_true hj32, Bool.true_and]
  obtain ⟨k, hk, _⟩ := Nat.exists_most_significant_bit h0
  refine ⟨k, Nat.eq_of_testBit_eq fun j => ?_⟩
  rw [Nat.testBit_two_pow]
  cases hj : n.testBit j with
  | true => exact (decide_eq_true (eq_of_popcount_le_one hc (hbit k hk) (hbit j hj))).symm
  | false => exact (decide_eq_false fun hkj => by rw [← hkj, hk] at hj; cases hj).symm

/-- The code by counting bits is the code by comparing with the single-bit masks. -/
theorem alarmCode_ofNat {n : Nat} (h : n < 65536) : alarmCode (BitVec.ofNat 32 n) = alarmCodeOf n := by
  by_cases hpow : ∃ k, n = 2 ^ k
  · obtain ⟨k, rfl⟩ := hpow
    have hk : k < 16 := (Nat.pow_lt_pow_iff_right (by decide : 1 < 2)).mp h
    have hsingle : ∀ k : Fin 16, alarmCode (BitVec.ofNat 32 (2 ^ k.val)) = alarmCodeOf (2 ^ k.val) := by decide
    exact hsingle ⟨k, hk⟩
  · by_cases h0 : n = 0
    · subst h0
      decide
    · have hne : BitVec.ofNat 32 n ≠ 0 := by bv_omega
      have hmany : popcount (BitVec.ofNat 32 n) ≥ 2 := by
        by_contra hc
        exact hpow (eq_two_pow_of_popcount_le_one h0 (by omega) (by omega))
      have hfind : (List.range 14).find? (fun k => n == 2 ^ k) = none :=
        List.find?_eq_none.mpr fun k _ hk => hpow ⟨k, eq_of_beq hk⟩
      have hhigh : ¬(n = 2 ^ 14 ∨ n = 2 ^ 15) := fun hk => hk.elim (fun e => hpow ⟨14, e⟩) fun e => hpow ⟨15, e⟩
      rw [alarmCode, if_neg hne, if_pos hmany, alarmCodeOf, if_neg h0, hfind]
      exact (if_neg hhigh).symm

/-! ## What the result registers show after operations of stage UNP (R100) -/

/-- The count of result register `i` and its availability flag. -/
def State.shown (s : State) (i : Fin 8) : Int × Bool := (s.x i, s.available i)

theorem Unpacked.shown_eq {s t : State} {i : Fin 8} {z : Int} {b : Bool} (h : Unpacked s t i z b) :
    t.shown = Function.update s.shown i (z, b) := by
  obtain ⟨_, hx, hv, hbit, hbits⟩ := h
  funext j
  by_cases hj : j = i
  · subst hj
    rw [Function.update_self]
    exact Prod.ext hx hbit
  · rw [Function.update_of_ne hj]
    exact Prod.ext (congrArg BitVec.toInt (hv j hj)) (hbits j.val fun e => hj (Fin.ext e))

/-- Operations of stage UNP have left this in the result registers, their flags and MISC, and touched nothing else. -/
structure UnpacksTo (s t : State) (shown : Fin 8 → Int × Bool) (misc : Byte) : Prop where
  frame : ∃ v avail, t = { s with v := v, avail := avail, misc := misc }
  shown : t.shown = shown

section
variable {s t : State} {f : Fin 8 → Int × Bool} {m : Byte}

theorem UnpacksTo.refl (s : State) : UnpacksTo s s s.shown s.misc := ⟨⟨_, _, rfl⟩, rfl⟩

theorem UnpacksTo.dblk_eq (h : UnpacksTo s t f m) : t.dblk = s.dblk := by
  obtain ⟨_, _, rfl⟩ := h.frame
  rfl

theorem UnpacksTo.field {u : State} {i : Fin 8} {z : Int} {b : Bool} (h : UnpacksTo s t f m)
    (hu : Unpacked t u i z b) : UnpacksTo s u (Function.update f i (z, b)) m := by
  obtain ⟨⟨_, _, rfl⟩, rfl⟩ := h
  have hshown := Unpacked.shown_eq hu
  obtain ⟨hframe, _⟩ := hu
  exact ⟨⟨_, _, hframe⟩, hshown⟩

theorem UnpacksTo.flag (h : UnpacksTo s t f m) (g : Byte → Byte) :
    UnpacksTo s { t with misc := g t.misc } f (g m) := by
  obtain ⟨⟨_, _, rfl⟩, rfl⟩ := h
  exact ⟨⟨_, _, rfl⟩, rfl⟩

theorem UnpacksTo.plain (h : UnpacksTo s t f m) {fd : FieldSpec} {raw : Nat} (hraw : fd.raw s.dblk = raw)
    (hw : fd.w ≤ 31) : UnpacksTo s (unpackPlain fd t) (Function.update f fd.reg (raw, true)) m := by
  have hu := unpackPlain_unpacked fd t hw
  rw [h.dblk_eq, hraw] at hu
  exact h.field hu

theorem UnpacksTo.unsigned (h : UnpacksTo s t f m) {fd : FieldSpec} {raw : Nat} (hraw : fd.raw s.dblk = raw)
    (hw : fd.w ≤ 31) :
    UnpacksTo s (unpackUnsigned fd t) (Function.update f fd.reg (raw, !isSentinel fd.w raw)) m := by
  have hu := unpackUnsigned_unpacked fd t hw
  rw [h.dblk_eq, hraw] at hu
  exact h.field hu

theorem UnpacksTo.signed (h : UnpacksTo s t f m) {fd : FieldSpec} {raw : Nat} (hraw : fd.raw s.dblk = raw)
    (hl : 1 ≤ fd.w) (hw : fd.w ≤ 32) :
    UnpacksTo s (unpackSigned fd t) (Function.update f fd.reg (tc fd.w raw, !isSignedSentinel fd.w raw)) m := by
  have hu := unpackSigned_unpacked fd t hl hw
  rw [h.dblk_eq, hraw] at hu
  exact h.field hu

/-! ### Battery Monitor -/

/-- The flag of time-to-go looks at the raw value (R131). -/
theorem UnpacksTo.bmTtg (h : UnpacksTo s t f m) :
    ∃ u, exec .bmTtg t = .next u ∧ UnpacksTo s u (Function.update f 0 (le16 s.dblk[0] s.dblk[1], true))
      (putBit m 0 (le16 s.dblk[0] s.dblk[1] == 65535)) := by
  refine ⟨_, rfl, ?_⟩
  rw [fieldBmTtg_raw, h.dblk_eq]
  exact (h.plain (fieldBmTtg_raw _) (by decide)).flag fun r => putBit r 0 _

theorem UnpacksTo.bmVbat (h : UnpacksTo s t f m) :
    ∃ u, exec .bmVbat t = .next u ∧ UnpacksTo s u (Function.update f 1 (signed16 (le16 s.dblk[2] s.dblk[3]),
      le16 s.dblk[2] s.dblk[3] % 32768 != 32767)) m :=
  ⟨_, rfl, h.signed (fieldBmVbat_raw _) (by decide) (by decide)⟩

theorem UnpacksTo.bmAlarm (h : UnpacksTo s t f m) :
    ∃ u, exec .bmAlarm t = .next u ∧ UnpacksTo s u (Function.update f 2 (le16 s.dblk[4] s.dblk[5], true)) m :=
  ⟨_, rfl, h.plain (fieldBmAlarm_raw _) (by decide)⟩

theorem UnpacksTo.bmAuxSel (h : UnpacksTo s t f m) :
    ∃ u, exec .bmAuxSel t = .next u ∧ UnpacksTo s u f (putPair m 4 (BitVec.ofNat 2 (rawAuxSel s.dblk))) := by
  refine ⟨_, rfl, ?_⟩
  rw [auxSelector_eq, h.dblk_eq]
  exact h.flag fun r => putPair r 4 _

/-- BM.AUX in the sub-form the decoder picks (R135). -/
theorem exec_auxForm_unpacked (s : State) :
    ∃ t, exec (auxForm (blockAux (blockWord s.dblk))) s = .next t ∧
      Unpacked s t 3 (bmAuxCount s.dblk) (bmAuxAvailable s.dblk) := by
  have hsel : rawAuxSel s.dblk = 0 ∨ rawAuxSel s.dblk = 1 ∨ rawAuxSel s.dblk = 2 ∨ rawAuxSel s.dblk = 3 := by
    unfold rawAuxSel
    omega
  have hsigned := unpackSigned_unpacked fieldBmAuxVolt s (by decide) (by decide)
  have hvolt := unpackUnsigned_unpacked fieldBmAuxVolt s (by decide)
  have hkelvin := unpackUnsigned_unpacked fieldBmAuxKelvin s (by decide)
  rw [fieldBmAuxVolt_raw] at hsigned hvolt
  rw [fieldBmAuxKelvin_raw] at hkelvin
  rw [auxForm, blockAux_blockWord, bmAuxCount, bmAuxAvailable]
  obtain h | h | h | h := hsel <;> rw [h]
  · exact ⟨_, rfl, hsigned⟩
  · exact ⟨_, rfl, hvolt⟩
  · exact ⟨_, rfl, hkelvin⟩
  · exact ⟨_, rfl, unpacked_setX_setAvail s 3 false (by decide) (by decide)⟩

theorem UnpacksTo.bmAux (h : UnpacksTo s t f m) :
    ∃ u, exec (auxForm (blockAux (blockWord s.dblk))) t = .next u ∧
      UnpacksTo s u (Function.update f 3 (bmAuxCount s.dblk, bmAuxAvailable s.dblk)) m := by
  obtain ⟨u, hexec, hu⟩ := exec_auxForm_unpacked t
  rw [h.dblk_eq] at hexec hu
  exact ⟨u, hexec, h.field hu⟩

theorem UnpacksTo.bmIbat (h : UnpacksTo s t f m) :
    ∃ u, exec .bmIbat t = .next u ∧ UnpacksTo s u (Function.update f 4 (signed22 (rawBmIbat s.dblk),
      rawBmIbat s.dblk % 2097152 != 2097151)) m :=
  ⟨_, rfl, h.signed (fieldBmIbat_raw _) (by decide) (by decide)⟩

theorem UnpacksTo.bmCons (h : UnpacksTo s t f m) :
    ∃ u, exec .bmCons t = .next u ∧
      UnpacksTo s u (Function.update f 5 (rawBmCons s.dblk, rawBmCons s.dblk != 1048575)) m :=
  ⟨_, rfl, h.unsigned (fieldBmCons_raw _) (by decide)⟩

theorem socCount_cast (raw : Nat) : ((socCount raw : Nat) : Int) = if raw > 1000 then 9999 else (raw : Int) := by
  unfold socCount
  split <;> rfl

/-- The count is clamped, and the flags look at the raw value (R138). -/
theorem UnpacksTo.bmSoc (h : UnpacksTo s t f m) :
    ∃ u, exec .bmSoc t = .next u ∧
      UnpacksTo s u
        (Function.update f 6 (if rawBmSoc s.dblk > 1000 then 9999 else rawBmSoc s.dblk, rawBmSoc s.dblk != 1023))
        (putBit m 1 (decide (rawBmSoc s.dblk > 1000))) := by
  obtain ⟨lo, hi⟩ := (socCount_range (rawBmSoc s.dblk)).int32
  have hu := unpacked_setX_setAvail t 6 (rawBmSoc s.dblk != 1023) lo hi
  refine ⟨_, rfl, ?_⟩
  rw [fieldBmSoc_raw, h.dblk_eq, ← socCount_cast]
  exact (h.field hu).flag fun r => putBit r 1 _

/-! ### Solar Controller -/

theorem UnpacksTo.scState (h : UnpacksTo s t f m) :
    ∃ u, exec .scState t = .next u ∧ UnpacksTo s u (Function.update f 0 (s.dblk[0].toNat, true)) m :=
  ⟨_, rfl, h.plain (fieldScState_raw _) (by decide)⟩

theorem UnpacksTo.scErr (h : UnpacksTo s t f m) :
    ∃ u, exec .scErr t = .next u ∧ UnpacksTo s u (Function.update f 1 (s.dblk[1].toNat, true)) m :=
  ⟨_, rfl, h.plain (fieldScErr_raw _) (by decide)⟩

theorem UnpacksTo.scVbat (h : UnpacksTo s t f m) :
    ∃ u, exec .scVbat t = .next u ∧ UnpacksTo s u (Function.update f 2 (signed16 (le16 s.dblk[2] s.dblk[3]),
      le16 s.dblk[2] s.dblk[3] % 32768 != 32767)) m :=
  ⟨_, rfl, h.signed (fieldScVbat_raw _) (by decide) (by decide)⟩

theorem UnpacksTo.scIbat (h : UnpacksTo s t f m) :
    ∃ u, exec .scIbat t = .next u ∧ UnpacksTo s u (Function.update f 3 (signed16 (le16 s.dblk[4] s.dblk[5]),
      le16 s.dblk[4] s.dblk[5] % 32768 != 32767)) m :=
  ⟨_, rfl, h.signed (fieldScIbat_raw _) (by decide) (by decide)⟩

theorem UnpacksTo.scEday (h : UnpacksTo s t f m) :
    ∃ u, exec .scEday t = .next u ∧
      UnpacksTo s u (Function.update f 4 (le16 s.dblk[6] s.dblk[7], le16 s.dblk[6] s.dblk[7] != 65535)) m :=
  ⟨_, rfl, h.unsigned (fieldScEday_raw _) (by decide)⟩

theorem UnpacksTo.scPv (h : UnpacksTo s t f m) :
    ∃ u, exec .scPv t = .next u ∧
      UnpacksTo s u (Function.update f 5 (le16 s.dblk[8] s.dblk[9], le16 s.dblk[8] s.dblk[9] != 65535)) m :=
  ⟨_, rfl, h.unsigned (fieldScPv_raw _) (by decide)⟩

theorem UnpacksTo.scIload (h : UnpacksTo s t f m) :
    ∃ u, exec .scIload t = .next u ∧
      UnpacksTo s u (Function.update f 6 (rawScIload s.dblk, rawScIload s.dblk != 511)) m :=
  ⟨_, rfl, h.unsigned (fieldScIload_raw _) (by decide)⟩

end

theorem runOps_cons_of_next {i : Instr} {s t : State} (is : List Instr) (h : exec i s = .next t) :
    runOps (i :: is) s = runOps is t := by
  simp only [runOps, h]

/-! ## What each stage makes of the reading -/

/-- The count and the flag a reading has for result register `i`. -/
def Reading.shown (r : Reading) (i : Fin 8) : Int × Bool := (r.counts.getD i.val 0, r.available.getD i.val false)

/-- The reading after stage UNP, by what the result registers show. -/
theorem UnpacksTo.readingOf_eq {s t : State} {f : Fin 8 → Int × Bool} {m : Byte} (h : UnpacksTo s t f m) :
    readingOf t = { readingOf s with
      counts := [(f 0).1, (f 1).1, (f 2).1, (f 3).1, (f 4).1, (f 5).1, (f 6).1, (f 7).1]
      available := [(f 0).2, (f 1).2, (f 2).2, (f 3).2, (f 4).2, (f 5).2, (f 6).2, (f 7).2]
      misc := m } := by
  obtain ⟨⟨_, _, rfl⟩, rfl⟩ := h
  rfl

/-- DUDMASK with the flags of V2 to V6 in a list (R16). -/
def dudMask (flags : List Bool) : Byte :=
  putBit (putBit (putBit (putBit (putBit 0 2 (flags.getD 0 false)) 3 (flags.getD 1 false)) 4 (flags.getD 2 false)) 5
    (flags.getD 3 false)) 6 (flags.getD 4 false)

/-- What DUDSUM makes of the state (R186). -/
def dudSumEffect (s : State) : State :=
  ({ s with duds := BitVec.ofNat 3 (popcount s.dudmask) }.setSuppress
    (decide (popcount s.dudmask > s.toleratedDuds))).setStage 8

theorem popcount_dudMask (v i e p l : Bool) : popcount (dudMask [v, i, e, p, l]) = [v, i, e, p, l].count true := by
  revert v i e p l
  decide

theorem dudMask_bits (v i e p l : Bool) :
    [(dudMask [v, i, e, p, l]).getLsbD 0, (dudMask [v, i, e, p, l]).getLsbD 1, (dudMask [v, i, e, p, l]).getLsbD 2,
      (dudMask [v, i, e, p, l]).getLsbD 3, (dudMask [v, i, e, p, l]).getLsbD 4, (dudMask [v, i, e, p, l]).getLsbD 5,
      (dudMask [v, i, e, p, l]).getLsbD 6, (dudMask [v, i, e, p, l]).getLsbD 7] =
      [false, false, v, i, e, p, l, false] := by
  revert v i e p l
  decide

theorem toNat_duds_dudMask (v i e p l : Bool) :
    (BitVec.ofNat 3 (popcount (dudMask [v, i, e, p, l]))).toNat = [v, i, e, p, l].count true := by
  rw [toNat_duds _ (by revert v i e p l; decide), popcount_dudMask]

/-- The reading after DUDSUM, by the flags it counts. -/
theorem readingOf_dudSumEffect {s : State} {v i e p l : Bool} (h : s.dudmask = dudMask [v, i, e, p, l]) :
    readingOf (dudSumEffect s) = { readingOf s with
      duds := [false, false] ++ [v, i, e, p, l] ++ [false]
      dudCount := [v, i, e, p, l].count true
      suppress := decide ([v, i, e, p, l].count true > s.toleratedDuds) } := by
  have hsup : (dudSumEffect s).suppress = decide (popcount s.dudmask > s.toleratedDuds) :=
    State.setSuppress_suppress _ _
  have hmask : (dudSumEffect s).dudmask = s.dudmask := rfl
  have hduds : (dudSumEffect s).duds = BitVec.ofNat 3 (popcount s.dudmask) := rfl
  rw [readingOf, hsup, hmask, hduds, h, toNat_duds_dudMask, dudMask_bits, popcount_dudMask]
  rfl

/-- FIN leaves the reading as it is. -/
theorem readingOf_finEffect (s : State) : readingOf (finEffect s) = readingOf s := by
  have hsup : (finEffect s).suppress = s.suppress := by simp [finEffect]
  rw [readingOf, hsup]
  rfl

theorem toleratedDuds_eq (s : State) : s.toleratedDuds = if s.cfg.getLsbD 1 then s.ftol.toNat % 8 else 0 := by
  rw [State.toleratedDuds, State.tolerance, BitVec.extractLsb'_toNat, Nat.shiftRight_zero]
  rfl

/-! ## The stages UNP to FIN of an accepted frame (R100 to R105) -/

theorem step_sequencer {s : State} (hs : s.schedule = []) (hb : s.busy = true) : step s = sequencerStep s :=
  (step_of_schedule_nil hs).trans (sequencerTurn_of_busy hb)

/-- The frame is decrypted and stage UNP is next; what the stages from there on write is as START left it. -/
structure AtUnpack (s : State) : Prop where
  schedule : s.schedule = []
  busy : s.busy = true
  stage : s.stage = 5
  shown7 : s.shown 7 = (0, false)
  misc : s.misc = 0
  almcode : s.almcode = 0
  dudmask : s.dudmask = 0
  status : s.status = 0

/-- The rest of the run ends with the reading, DONE and ACCEPT, and changes nothing but results, flags and STATUS. -/
structure ReadTo (s t : State) (r : Reading) : Prop where
  frame : ∃ v avail misc almcode dudmask duds status, t = { s with
    v := v, avail := avail, misc := misc, almcode := almcode, dudmask := dudmask, duds := duds, status := status,
    stage := 0 }
  status : t.status = if r.suppress then 0x13 else 0x03
  reading : readingOf t = r

theorem ReadTo.done_accept_rej {s t : State} {r : Reading} (h : ReadTo s t r) :
    t.done = true ∧ t.accept = true ∧ t.rej = 0 := by
  have hbits : ∀ b : Bool, (if b then 0x13 else 0x03 : Byte).getLsbD 0 = true ∧
      (if b then 0x13 else 0x03 : Byte).getLsbD 1 = true ∧ (if b then 0x13 else 0x03 : Byte).extractLsb' 2 2 = 0 := by
    decide
  rw [State.done, State.accept, State.rej, h.status]
  exact hbits r.suppress

theorem ReadTo.blocks {s t : State} {r : Reading} (h : ReadTo s t r) :
    t.iv = s.iv ∧ t.cblk = s.cblk ∧ t.dblk = s.dblk := by
  obtain ⟨_, _, _, _, _, _, _, rfl⟩ := h.frame
  exact ⟨rfl, rfl, rfl⟩

/-- STATUS of an accepted frame after FIN: DONE, ACCEPT, and SUPPRESS as DUDSUM found it. -/
theorem status_finEffect_dudSumEffect {s : State} (h : s.status = 0) :
    (finEffect (dudSumEffect s)).status =
      if (readingOf (finEffect (dudSumEffect s))).suppress then 0x13 else 0x03 := by
  have hbits : ∀ b : Bool, putBit (putBit (putBit (0 : Byte) 4 b) 1
      ((putBit (0 : Byte) 4 b).extractLsb' 2 2 == 0)) 0 true = if b then 0x13 else 0x03 := by decide
  have hsup : (finEffect (dudSumEffect s)).suppress = decide (popcount s.dudmask > s.toleratedDuds) := by
    simp [finEffect, dudSumEffect]
  have hstatus : (finEffect (dudSumEffect s)).status =
      putBit (putBit (putBit s.status 4 (decide (popcount s.dudmask > s.toleratedDuds))) 1
        ((putBit s.status 4 (decide (popcount s.dudmask > s.toleratedDuds))).extractLsb' 2 2 == 0)) 0 true := rfl
  rw [hstatus, h, hbits, readingOf, hsup]

/-- DUDSUM and FIN end the run, when what was done before them touched results and flags only. -/
theorem readTo_finEffect_dudSumEffect {s d : State} {r : Reading} (hs : s.status = 0)
    (hd : ∃ v avail misc almcode dudmask, d = { s with
      v := v, avail := avail, misc := misc, almcode := almcode, dudmask := dudmask, stage := 7 })
    (hr : readingOf (dudSumEffect d) = r) : ReadTo s (finEffect (dudSumEffect d)) r := by
  have hread : readingOf (finEffect (dudSumEffect d)) = r := (readingOf_finEffect _).trans hr
  obtain ⟨_, _, _, _, _, rfl⟩ := hd
  exact ⟨⟨_, _, _, _, _, _, _, rfl⟩, hread ▸ status_finEffect_dudSumEffect hs, hread⟩

/-- What tells whose turn is next, and which operations a stage has, is the same. -/
structure SameRun (s t : State) : Prop where
  schedule : t.schedule = s.schedule
  busy : t.busy = s.busy
  layout : t.layout = s.layout

/-- The four last stages one after the other. -/
theorem runSteps_of_stages {s t c d : State} (h : AtUnpack s) (ht : SameRun s t) (hc : SameRun s c) (hd : SameRun s d)
    (hunp : runOps (if s.layout then scOps else bmOps (blockWord s.dblk)) s = .next t)
    (hcod : runOps (if s.layout then [.stCode, .erCode] else [.almCode]) (t.setStage 6) = .next c)
    (hrng : runOps (if s.layout then rngOps else [.dudSum]) (c.setStage 7) = .next (dudSumEffect d)) :
    runSteps 4 s = .next (finEffect (dudSumEffect d)) := by
  have hbusy : (dudSumEffect d).busy = d.busy := State.setSuppress_busy { d with duds := _ } _
  have h5 : step s = .next (t.setStage 6) :=
    (step_sequencer h.schedule h.busy).trans (sequencerStep_unp s t h.stage hunp)
  have h6 : step (t.setStage 6) = .next (c.setStage 7) :=
    (step_sequencer (s := t.setStage 6) (ht.schedule.trans h.schedule) (ht.busy.trans h.busy)).trans
      (sequencerStep_cod _ c rfl (by rw [State.setStage_layout, ht.layout]; exact hcod))
  have h7 : step (c.setStage 7) = .next (dudSumEffect d) :=
    (step_sequencer (s := c.setStage 7) (hc.schedule.trans h.schedule) (hc.busy.trans h.busy)).trans
      (sequencerStep_rng _ _ rfl (by rw [State.setStage_layout, hc.layout]; exact hrng))
  have h8 : step (dudSumEffect d) = .next (finEffect (dudSumEffect d)) :=
    (step_sequencer (s := dudSumEffect d) (hd.schedule.trans h.schedule) (hbusy.trans (hd.busy.trans h.busy))).trans
      (sequencerStep_fin _ rfl)
  rw [runSteps_succ_of_next 3 h5, runSteps_succ_of_next 2 h6, runSteps_succ_of_next 1 h7, runSteps_succ_of_next 0 h8,
    runSteps]

theorem UnpacksTo.sameRun {s t : State} {f : Fin 8 → Int × Bool} {m : Byte} (h : UnpacksTo s t f m) :
    SameRun s t := by
  obtain ⟨_, _, rfl⟩ := h.frame
  exact ⟨rfl, rfl, rfl⟩

/-! ### Battery Monitor -/

theorem bmMisc_eq (d : Block) :
    putBit (putPair (putBit 0 0 (le16 d[0] d[1] == 65535)) 4 (BitVec.ofNat 2 (rawAuxSel d))) 1
      (decide (rawBmSoc d > 1000)) = bmMisc d := by
  have hbits : ∀ (inf clamp : Bool) (sel : Fin 4),
      putBit (putPair (putBit (0 : Byte) 0 inf) 4 (BitVec.ofNat 2 sel.val)) 1 clamp =
        BitVec.ofNat 8 ((if inf then 1 else 0) + (if clamp then 2 else 0) + 16 * sel.val) := by decide
  have hsel : rawAuxSel d < 4 := Nat.mod_lt _ (by decide)
  rw [hbits _ _ ⟨rawAuxSel d, hsel⟩, bmMisc]
  simp only [beq_iff_eq, decide_eq_true_eq]

/-- The counts and flags of the seven fields make up what a Battery Monitor reading shows, V7 being as it was. -/
theorem bmReading_shown (d : Block) {f : Fin 8 → Int × Bool} (h7 : f 7 = (0, false)) :
    Function.update (Function.update (Function.update (Function.update (Function.update (Function.update
      (Function.update f 0 (le16 d[0] d[1], true))
      1 (signed16 (le16 d[2] d[3]), le16 d[2] d[3] % 32768 != 32767))
      2 (le16 d[4] d[5], true))
      3 (bmAuxCount d, bmAuxAvailable d))
      4 (signed22 (rawBmIbat d), rawBmIbat d % 2097152 != 2097151))
      5 (rawBmCons d, rawBmCons d != 1048575))
      6 (if rawBmSoc d > 1000 then 9999 else rawBmSoc d, rawBmSoc d != 1023) = (bmReading d).shown := by
  funext i
  refine Fin.lastCases h7 (fun j => ?_) i
  fin_cases j <;> rfl

/-- Stage UNP in the Battery Monitor layout (R131 to R138). -/
theorem runOps_bmOps {s : State} (h7 : s.shown 7 = (0, false)) (hm : s.misc = 0) :
    ∃ t, runOps (bmOps (blockWord s.dblk)) s = .next t ∧
      UnpacksTo s t (bmReading s.dblk).shown (bmMisc s.dblk) := by
  obtain ⟨t1, e1, h1⟩ := (UnpacksTo.refl s).bmTtg
  obtain ⟨t2, e2, h2⟩ := h1.bmVbat
  obtain ⟨t3, e3, h3⟩ := h2.bmAlarm
  obtain ⟨t4, e4, h4⟩ := h3.bmAuxSel
  obtain ⟨t5, e5, h5⟩ := h4.bmAux
  obtain ⟨t6, e6, h6⟩ := h5.bmIbat
  obtain ⟨t7, e7, h7'⟩ := h6.bmCons
  obtain ⟨t, e8, ht⟩ := h7'.bmSoc
  rw [hm, bmMisc_eq, bmReading_shown s.dblk h7] at ht
  refine ⟨t, ?_, ht⟩
  rw [bmOps, runOps_cons_of_next _ e1, runOps_cons_of_next _ e2, runOps_cons_of_next _ e3, runOps_cons_of_next _ e4,
    runOps_cons_of_next _ e5, runOps_cons_of_next _ e6, runOps_cons_of_next _ e7, runOps_cons_of_next _ e8, runOps]

/-- The bits of a result register that shows a count without sign (R8). -/
theorem State.v_eq_ofNat {s : State} {i : Fin 8} {n : Nat} (h : s.x i = n) : s.v[i] = BitVec.ofNat 32 n := by
  rw [← BitVec.ofInt_natCast, ← h, State.x, BitVec.ofInt_toInt]

/-- The state between stages COD and RNG, by the state after UNP (R101). -/
def bmCoded (t : State) : State := { t with almcode := alarmCode t.v[2] }.setStage 7

theorem readingOf_bmCoded (t : State) : readingOf (bmCoded t) = { readingOf t with almcode := alarmCode t.v[2] } := rfl

theorem readingOf_dudSumEffect_bmCoded {s t : State} (h : AtUnpack s)
    (ht : UnpacksTo s t (bmReading s.dblk).shown (bmMisc s.dblk)) :
    readingOf (dudSumEffect (bmCoded t)) = bmReading s.dblk := by
  have hx : t.x 2 = le16 s.dblk[4] s.dblk[5] := congrArg Prod.fst (congrFun ht.shown 2)
  have halarm : alarmCode t.v[2] = alarmCodeOf (le16 s.dblk[4] s.dblk[5]) :=
    (congrArg alarmCode (State.v_eq_ofNat hx)).trans (alarmCode_ofNat (le16_lt _ _))
  have hmask : (bmCoded t).dudmask = dudMask [false, false, false, false, false] := by
    obtain ⟨_, _, rfl⟩ := ht.frame
    exact h.dudmask.trans (by decide)
  rw [readingOf_dudSumEffect hmask, readingOf_bmCoded, ht.readingOf_eq, halarm]
  exact congrArg (fun b => { bmReading s.dblk with suppress := b }) (decide_eq_false (Nat.not_lt_zero _))

/-- Stages UNP to FIN in the Battery Monitor layout. -/
theorem runSteps_bm {s : State} (h : AtUnpack s) (hl : s.layout = false) :
    ∃ t, runSteps 4 s = .next t ∧ ReadTo s t (bmReading s.dblk) := by
  obtain ⟨t, hunp, ht⟩ := runOps_bmOps h.shown7 h.misc
  have hrun := ht.sameRun
  have hsteps : runSteps 4 s = .next (finEffect (dudSumEffect (bmCoded t))) :=
    runSteps_of_stages h hrun (c := { t.setStage 6 with almcode := alarmCode t.v[2] })
      ⟨hrun.schedule, hrun.busy, hrun.layout⟩ ⟨hrun.schedule, hrun.busy, hrun.layout⟩ (by rw [hl]; exact hunp)
      (by rw [hl]; rfl) (by rw [hl]; rfl)
  refine ⟨_, hsteps, readTo_finEffect_dudSumEffect h.status ?_ (readingOf_dudSumEffect_bmCoded h ht)⟩
  obtain ⟨_, _, rfl⟩ := ht.frame
  exact ⟨_, _, _, _, _, rfl⟩

/-! ### Solar Controller -/

/-- The counts and flags of the seven fields make up what a Solar Controller reading shows, V7 being as it was. -/
theorem scReading_shown (s : State) (d : Block) {f : Fin 8 → Int × Bool} (h7 : f 7 = (0, false)) :
    Function.update (Function.update (Function.update (Function.update (Function.update (Function.update
      (Function.update f 0 (d[0].toNat, true))
      1 (d[1].toNat, true))
      2 (signed16 (le16 d[2] d[3]), le16 d[2] d[3] % 32768 != 32767))
      3 (signed16 (le16 d[4] d[5]), le16 d[4] d[5] % 32768 != 32767))
      4 (le16 d[6] d[7], le16 d[6] d[7] != 65535))
      5 (le16 d[8] d[9], le16 d[8] d[9] != 65535))
      6 (rawScIload d, rawScIload d != 511) = (scReading s d).shown := by
  funext i
  refine Fin.lastCases h7 (fun j => ?_) i
  fin_cases j <;> rfl

/-- Stage UNP in the Solar Controller layout (R151 to R157). -/
theorem runOps_scOps {s : State} (h7 : s.shown 7 = (0, false)) :
    ∃ t, runOps scOps s = .next t ∧ UnpacksTo s t (scReading s s.dblk).shown s.misc := by
  obtain ⟨t1, e1, h1⟩ := (UnpacksTo.refl s).scState
  obtain ⟨t2, e2, h2⟩ := h1.scErr
  obtain ⟨t3, e3, h3⟩ := h2.scVbat
  obtain ⟨t4, e4, h4⟩ := h3.scIbat
  obtain ⟨t5, e5, h5⟩ := h4.scEday
  obtain ⟨t6, e6, h6⟩ := h5.scPv
  obtain ⟨t, e7, ht⟩ := h6.scIload
  rw [scReading_shown s s.dblk h7] at ht
  refine ⟨t, ?_, ht⟩
  rw [scOps, runOps_cons_of_next _ e1, runOps_cons_of_next _ e2, runOps_cons_of_next _ e3, runOps_cons_of_next _ e4,
    runOps_cons_of_next _ e5, runOps_cons_of_next _ e6, runOps_cons_of_next _ e7, runOps]

/-- The state between stages COD and RNG, by the state after UNP (R101). -/
def scCoded (t : State) : State :=
  { t with misc := putBit (putBit t.misc 2 (decide (t.x 0 ≤ 7))) 3 (decide (t.x 1 ≤ 8)), stage := 7 }

theorem readingOf_scCoded (t : State) : readingOf (scCoded t) =
    { readingOf t with misc := putBit (putBit t.misc 2 (decide (t.x 0 ≤ 7))) 3 (decide (t.x 1 ≤ 8)) } := rfl

/-- The flags the range classifier computes, V2 to V6 (R181 to R185). -/
def rangeFlags (t : State) : List Bool :=
  [isRangeDud (t.available 2) (t.boundValue .vmin) (t.boundValue .vmax) (t.x 2),
    isRangeDud (t.available 3) (t.boundValue .imin) (t.boundValue .imax) (t.x 3),
    isCeilingDud (t.available 4) (t.boundValue .emax) (t.x 4),
    isCeilingDud (t.available 5) (t.boundValue .pmax) (t.x 5), t.loadSup && !t.available 6]

/-- The state in which DUDSUM of stage RNG runs (R102). -/
def scClassified (t : State) : State := { t with dudmask := dudMask (rangeFlags t) }

theorem runOps_rngOps_of_clear {t : State} (h : t.dudmask = 0) :
    runOps rngOps t = .next (dudSumEffect (scClassified t)) := by
  have hrun : runOps rngOps t =
      .next (dudSumEffect (((((t.setDud 2 _).setDud 3 _).setDud 4 _).setDud 5 _).setDud 6 _)) := rfl
  simp only [State.setDud_available, State.setDud_x, State.setDud_boundValue, State.setDud_loadSup] at hrun
  rw [hrun, scClassified, dudMask, ← h]
  rfl

theorem readingOf_dudSumEffect_scClassified (t : State) :
    readingOf (dudSumEffect (scClassified t)) = { readingOf t with
      duds := [false, false] ++ rangeFlags t ++ [false]
      dudCount := (rangeFlags t).count true
      suppress := decide ((rangeFlags t).count true > t.toleratedDuds) } :=
  readingOf_dudSumEffect (s := scClassified t) rfl

/-- The flags computed from the registers are those of the block's bytes. -/
theorem UnpacksTo.rangeFlags_eq {s t : State} {m : Byte} (h : UnpacksTo s t (scReading s s.dblk).shown m) :
    rangeFlags t = scDuds s s.dblk := by
  have hx : ∀ i, t.x i = ((scReading s s.dblk).shown i).1 := fun i => congrArg Prod.fst (congrFun h.shown i)
  have ha : ∀ i, t.available i = ((scReading s s.dblk).shown i).2 := fun i => congrArg Prod.snd (congrFun h.shown i)
  have hbound : ∀ b, t.boundValue b = s.boundValue b := by
    obtain ⟨_, _, rfl⟩ := h.frame
    intro b
    cases b <;> rfl
  have hload : t.loadSup = s.cfg.getLsbD 2 := by
    obtain ⟨_, _, rfl⟩ := h.frame
    rfl
  rw [rangeFlags, hx, hx, hx, hx, ha, ha, ha, ha, ha, hload]
  simp only [hbound]
  simp [isRangeDud, isCeilingDud, scDuds, State.boundValue, Reading.shown, scReading, bne]

theorem scMisc_eq (n k : Nat) :
    putBit (putBit (0 : Byte) 2 (decide ((n : Int) ≤ 7))) 3 (decide ((k : Int) ≤ 8)) =
      BitVec.ofNat 8 ((if n ≤ 7 then 4 else 0) + (if k ≤ 8 then 8 else 0)) := by
  have hbits : ∀ known known' : Bool, putBit (putBit (0 : Byte) 2 known) 3 known' =
      BitVec.ofNat 8 ((if known then 4 else 0) + (if known' then 8 else 0)) := by decide
  have hn : ((n : Int) ≤ 7) ↔ n ≤ 7 := by omega
  have hk : ((k : Int) ≤ 8) ↔ k ≤ 8 := by omega
  simp only [hbits, hn, hk, decide_eq_true_eq]

theorem readingOf_dudSumEffect_scCoded {s t : State} (h : AtUnpack s)
    (ht : UnpacksTo s t (scReading s s.dblk).shown s.misc) :
    readingOf (dudSumEffect (scClassified (scCoded t))) = scReading s s.dblk := by
  have hx0 : t.x 0 = s.dblk[0].toNat := congrArg Prod.fst (congrFun ht.shown 0)
  have hx1 : t.x 1 = s.dblk[1].toNat := congrArg Prod.fst (congrFun ht.shown 1)
  have hm : t.misc = 0 := by
    obtain ⟨_, _, rfl⟩ := ht.frame
    exact h.misc
  have hflags : rangeFlags (scCoded t) = scDuds s s.dblk := ht.rangeFlags_eq
  have htol : (scCoded t).toleratedDuds = if s.cfg.getLsbD 1 then s.ftol.toNat % 8 else 0 := by
    rw [toleratedDuds_eq]
    obtain ⟨_, _, rfl⟩ := ht.frame
    rfl
  rw [readingOf_dudSumEffect_scClassified, hflags, htol, readingOf_scCoded, ht.readingOf_eq, hm, hx0, hx1, scMisc_eq]
  exact congrArg (fun a => { scReading s s.dblk with almcode := a }) h.almcode

/-- Stages UNP to FIN in the Solar Controller layout. -/
theorem runSteps_sc {s : State} (h : AtUnpack s) (hl : s.layout = true) :
    ∃ t, runSteps 4 s = .next t ∧ ReadTo s t (scReading s s.dblk) := by
  obtain ⟨t, hunp, ht⟩ := runOps_scOps h.shown7
  have hrun := ht.sameRun
  have hclear : (scCoded t).dudmask = 0 := by
    obtain ⟨_, _, rfl⟩ := ht.frame
    exact h.dudmask
  have hsteps : runSteps 4 s = .next (finEffect (dudSumEffect (scClassified (scCoded t)))) :=
    runSteps_of_stages h hrun
      (c := ((t.setStage 6).setStKnown (decide (t.x 0 ≤ 7))).setErKnown (decide (t.x 1 ≤ 8)))
      ⟨hrun.schedule, hrun.busy, hrun.layout⟩ ⟨hrun.schedule, hrun.busy, hrun.layout⟩ (by rw [hl]; exact hunp)
      (by rw [hl]; rfl) (by rw [hl]; exact runOps_rngOps_of_clear hclear)
  refine ⟨_, hsteps, readTo_finEffect_dudSumEffect h.status ?_ (readingOf_dudSumEffect_scCoded h ht)⟩
  obtain ⟨_, _, rfl⟩ := ht.frame
  exact ⟨_, _, _, _, _, rfl⟩

/-! ## START and the stages CHK to DEC (R92, R96 to R98, R110) -/

theorem runSteps_idle {s : State} (hs : s.schedule = []) (hb : s.busy = false) (k : Nat) : runSteps k s = .next s := by
  have hstep : step s = .next s := (step_of_schedule_nil hs).trans (sequencerTurn_of_idle hb)
  induction k with
  | zero => rfl
  | succ k ih => rw [runSteps_succ_of_next k hstep, ih]

/-- A frame that has just been started, with no turn scheduled. -/
def started (s : State) : State := startEffect { s with schedule := [] }

theorem started_busy (s : State) : (started s).busy = true :=
  (State.busy_iff _).mpr ⟨startEffect_ready _, startEffect_done _⟩

/-- GO is one write of 1 to CTRL (R80). -/
theorem step_go {s : State} (hr : s.ready = false) (hs : s.schedule = go) : step s = .next (started s) := by
  have hwrite : takeTurn (turnWrite 0 1) { s with schedule := [] } = .next (started s) := by
    rw [takeTurn_turnWrite, hostWrite_start (s := { s with schedule := [] }) (by decide) hr, started]
  exact (step_of_schedule_cons hs).trans hwrite

/-- The state after DEC, by the state the frame was started in. -/
def decrypted (s : State) : State :=
  { s with
    iv := ivOf s.frame
    cblk := cipherBlockOf s.frame (lengthOf s)
    scr := decryptScratch s.key (ivOf s.frame)
    dblk := decryptedBlock s
    stage := 5 }

/-- The stages CHK to DEC of an accepted frame. -/
theorem runSteps_decrypted {s : State} (hs : s.schedule = []) (hb : s.busy = true) (h1 : s.stage = 1)
    (hacc : FrameAccepted s) (k : Nat) : runSteps (k + 4) s = runSteps k (decrypted s) := by
  have hchk : step s = .next (s.setStage 2) :=
    (step_sequencer hs hb).trans ((sequencerStep_chk s h1).trans (exec_chkFrm_accepted hacc))
  have hivg : step (s.setStage 2) = .next ({ s with iv := ivOf s.frame }.setStage 3) :=
    (step_sequencer (s := s.setStage 2) hs hb).trans (sequencerStep_ivg _ rfl)
  have hldb : step ({ s with iv := ivOf s.frame }.setStage 3) =
      .next ({ s with iv := ivOf s.frame, cblk := cipherBlockOf s.frame (lengthOf s) }.setStage 4) := by
    rw [← frameLen_eq_lengthOf]
    exact (step_sequencer (s := { s with iv := ivOf s.frame }.setStage 3) hs hb).trans (sequencerStep_ldb _ rfl)
  have hdec : step ({ s with iv := ivOf s.frame, cblk := cipherBlockOf s.frame (lengthOf s) }.setStage 4) =
      .next (decrypted s) :=
    (step_sequencer (s := { s with iv := ivOf s.frame, cblk := cipherBlockOf s.frame (lengthOf s) }.setStage 4)
      hs hb).trans (sequencerStep_dec _ rfl)
  rw [runSteps_succ_of_next (k + 3) hchk, runSteps_succ_of_next (k + 2) hivg, runSteps_succ_of_next (k + 1) hldb,
    runSteps_succ_of_next k hdec]

theorem atUnpack_decrypted_started (s : State) : AtUnpack (decrypted (started s)) := by
  have hzero : ((Vector.replicate 8 (0 : Word32))[(7 : Fin 8)].toInt, (0 : Byte).getLsbD 7) = (0, false) := by decide
  exact ⟨rfl, started_busy s, rfl, hzero, rfl, rfl, rfl, rfl⟩

/-- START leaves what the decrypted block comes from. -/
theorem decrypted_started_dblk (s : State) : (decrypted (started s)).dblk = decryptedBlock s := rfl

/-- Of the state a reading looks at configuration and bounds only. -/
theorem scReading_decrypted_started (s : State) (d : Block) : scReading (decrypted (started s)) d = scReading s d := rfl

/-- The whole transaction of an accepted frame (R95). -/
theorem runSteps_accepted {s : State} (hr : s.ready = false) (hs : s.schedule = go) (hacc : FrameAccepted s) :
    ∃ t, runSteps 9 s = .next t ∧ ReadTo (decrypted (started s)) t (expectedReading s) := by
  have hunpack := atUnpack_decrypted_started s
  have hrun : runSteps 9 s = runSteps 4 (decrypted (started s)) :=
    (runSteps_succ_of_next 8 (step_go hr hs)).trans (runSteps_decrypted rfl (started_busy s) rfl hacc 4)
  rw [hrun, expectedReading]
  cases hl : s.cfg.getLsbD 0 with
  | false =>
    obtain ⟨t, ht, hread⟩ := runSteps_bm hunpack hl
    rw [decrypted_started_dblk] at hread
    exact ⟨t, ht, hread⟩
  | true =>
    obtain ⟨t, ht, hread⟩ := runSteps_sc hunpack hl
    rw [scReading_decrypted_started, decrypted_started_dblk] at hread
    exact ⟨t, ht, hread⟩

/-! ## A rejected frame (R205) -/

/-- The state a rejected frame ends in. -/
def rejected (s : State) : State := finEffect (raiseReject (causeOf s) (started s))

/-- The machine idles after a rejected frame. -/
theorem runSteps_rejected {s : State} (hr : s.ready = false) (hs : s.schedule = go) (hacc : ¬FrameAccepted s)
    (k : Nat) : runSteps (k + 3) s = .next (rejected s) := by
  have hbusy : (raiseReject (causeOf s) (started s)).busy = true :=
    (State.setRej_busy (started s) _).trans (started_busy s)
  have hchk : step (started s) = .next (raiseReject (causeOf s) (started s)) :=
    (step_sequencer (s := started s) rfl (started_busy s)).trans
      ((sequencerStep_chk _ rfl).trans (exec_chkFrm_rejected hacc))
  have hfin : step (raiseReject (causeOf s) (started s)) = .next (rejected s) :=
    (step_sequencer (s := raiseReject (causeOf s) (started s)) rfl hbusy).trans (sequencerStep_fin _ rfl)
  have hidle : (rejected s).busy = false := by simp [State.busy, rejected, finEffect]
  rw [runSteps_succ_of_next (k + 2) (step_go hr hs), runSteps_succ_of_next (k + 1) hchk,
    runSteps_succ_of_next k hfin, runSteps_idle (s := rejected s) rfl hidle k]

theorem status_finEffect_raiseReject {s : State} (h : s.status = 0) (c : RejectCause) :
    (finEffect (raiseReject c s)).status = if c = .length then 0x05 else 0x09 := by
  have hstatus : (finEffect (raiseReject c s)).status = putBit (putBit (putPair s.status 2 (rejectCode c)) 1
      ((putPair s.status 2 (rejectCode c)).extractLsb' 2 2 == 0)) 0 true := rfl
  rw [hstatus, h]
  cases c <;> decide

/-- STATUS after a rejection: DONE and the cause. -/
theorem rejected_status (s : State) :
    (rejected s).status = if lengthOf s < 11 ∨ 26 < lengthOf s then 0x05 else 0x09 := by
  rw [rejected, status_finEffect_raiseReject rfl, causeOf]
  split
  case isTrue => exact if_pos rfl
  case isFalse => exact if_neg (by decide)

/-! ## What a frame's results depend on (R61, R98, R106) -/

/-- Rejected frames with the same cause leave the same reading. -/
theorem readingOf_rejected_congr {s s' : State} (h : causeOf s' = causeOf s) :
    readingOf (rejected s') = readingOf (rejected s) := by
  have hstart : ∀ c, readingOf (raiseReject c (started s')) = readingOf (raiseReject c (started s)) := fun c => by
    have hsup : ∀ u, (raiseReject c (started u)).suppress = false := fun u =>
      (State.setRej_suppress (started u) (rejectCode c)).trans (by decide : (0 : Byte).getLsbD 4 = false)
    rw [readingOf, readingOf, hsup, hsup]
    rfl
  rw [rejected, rejected, readingOf_finEffect, readingOf_finEffect, h, hstart]

/-- The same inputs as far as an operation reads them (R61). -/
structure SameRead (s s' : State) : Prop where
  cfg : s'.cfg = s.cfg
  flen : s'.flen = s.flen
  ftol : s'.ftol = s.ftol
  key : s'.key = s.key
  bound : ∀ b : Bound, s'.bound b = s.bound b
  frame : ∀ i : Fin 26, frameByteRead (lengthOf s) i.val = true → s'.frame[i] = s.frame[i]

section
variable {s s' : State}

theorem SameRead.lengthOf_eq (h : SameRead s s') : lengthOf s' = lengthOf s := by
  rw [lengthOf, h.flen, lengthOf]

theorem SameRead.frameAccepted_iff (h : SameRead s s') : FrameAccepted s' ↔ FrameAccepted s := by
  have h0 : s'.frame[0] = s.frame[0] := h.frame 0 rfl
  have h1 : s'.frame[1] = s.frame[1] := h.frame 1 rfl
  have h2 : s'.frame[2] = s.frame[2] := h.frame 2 rfl
  rw [FrameAccepted, FrameAccepted, h.lengthOf_eq, h0, h1, h2]

theorem SameRead.causeOf_eq (h : SameRead s s') : causeOf s' = causeOf s := by
  rw [causeOf, h.lengthOf_eq, causeOf]

theorem SameRead.ivOf_eq (h : SameRead s s') : ivOf s'.frame = ivOf s.frame := by
  have h7 : s'.frame[Config.ivSrc0] = s.frame[Config.ivSrc0] := h.frame 7 rfl
  have h8 : s'.frame[Config.ivSrc1] = s.frame[Config.ivSrc1] := h.frame 8 rfl
  rw [ivOf, h7, h8, ivOf]

/-- A byte of the cipher block is a ciphertext byte below the length, or zero. -/
theorem SameRead.cipherBlockOf_eq (h : SameRead s s') :
    cipherBlockOf s'.frame (lengthOf s') = cipherBlockOf s.frame (lengthOf s) := by
  rw [h.lengthOf_eq, cipherBlockOf, cipherBlockOf]
  congr 1
  funext i
  split
  case isTrue hi =>
    have hread : frameByteRead (lengthOf s) (10 + i.val) = true := by
      simp only [frameByteRead, decide_eq_true hi, Nat.le_add_right, decide_true, Bool.and_self, Bool.or_true]
    exact h.frame ⟨10 + i.val, by omega⟩ hread
  case isFalse => rfl

theorem SameRead.decryptedBlock_eq (h : SameRead s s') : decryptedBlock s' = decryptedBlock s := by
  rw [decryptedBlock, h.cipherBlockOf_eq, h.ivOf_eq, h.key, decryptedBlock]

theorem SameRead.scReading_eq (h : SameRead s s') (d : Block) : scReading s' d = scReading s d := by
  have hvmin : s'.vmin = s.vmin := h.bound .vmin
  have hvmax : s'.vmax = s.vmax := h.bound .vmax
  have himin : s'.imin = s.imin := h.bound .imin
  have himax : s'.imax = s.imax := h.bound .imax
  have hemax : s'.emax = s.emax := h.bound .emax
  have hpmax : s'.pmax = s.pmax := h.bound .pmax
  have hduds : scDuds s' d = scDuds s d := by
    rw [scDuds, h.cfg, hvmin, hvmax, himin, himax, hemax, hpmax, scDuds]
  rw [scReading, hduds, h.cfg, h.ftol, scReading]

theorem SameRead.expectedReading_eq (h : SameRead s s') : expectedReading s' = expectedReading s := by
  rw [expectedReading, h.cfg, h.decryptedBlock_eq, h.scReading_eq, expectedReading]

end

end Sys2Proof.Machine

namespace Sys2Proof.Proofs

open Sys2Proof.Machine

/-- Settles O10: the address is reserved, or that of a register byte, and then it is read exactly unless a per-frame
register is read in flight. -/
theorem hostReadReturnsTheRegisterByte : Obligations.HostReadReturnsTheRegisterByte := by
  intro a v s
  have hframe : hostRead a s = { s with rdata := (hostRead a s).rdata, draws := (hostRead a s).draws } := by
    obtain ⟨b, n, h⟩ := hostRead_frame a s
    rw [h]
  refine ⟨hostRead a s, rfl, hframe, ?_⟩
  split
  case isTrue h => rw [hostRead_reserved s ((regAt_eq_none_iff a).mpr h)]
  case isFalse h =>
    obtain ⟨r, ha⟩ := Option.ne_none_iff_exists'.mp (mt (regAt_eq_none_iff a).mp h)
    obtain rfl := (regAt_eq_some_iff a r).mp ha
    split
    case isTrue hkey =>
      obtain ⟨i, rfl⟩ := (key_addr_iff r).mpr hkey
      rw [hostRead_not_perFrame s rfl, State.readReg]
    case isFalse =>
      split
      case isTrue hfree =>
        obtain ⟨hb, _⟩ := hfree
        refine ⟨fun h1 => ?_, fun h2 => ?_, fun h6 => ?_⟩
        · rw [show r.addr = 0x01 from BitVec.eq_of_toNat_eq h1]
          exact hostRead_status_done s
        · rw [show r.addr = Reg.stage.addr from BitVec.eq_of_toNat_eq h2]
          exact hostRead_unspecified_and hb rfl (by decide) (by decide)
        · rw [show r.addr = Reg.duds.addr from BitVec.eq_of_toNat_eq h6]
          exact hostRead_unspecified_and hb rfl (by decide) (by decide)
      case isFalse hexact =>
        cases hb : s.busy with
        | false => rw [hostRead_exact _ s hb]
        | true =>
          have hp : r.perFrame = false :=
            Bool.eq_false_of_not_eq_true fun hp => hexact ⟨hb, (perFrame_iff r).mp hp⟩
          rw [hostRead_not_perFrame s hp, State.peek_addr]

/-- Settles O13: each address is that of its register byte. -/
theorem hostWriteStoresInEachRegister : Obligations.HostWriteStoresInEachRegister := by
  intro v s h
  have hbound (b : Bound) (high : Bool) := exec_hwr_register v (addr_bound_ne_zero b high) h
  exact ⟨exec_hwr_register (r := .cfg) v (by decide) h, exec_hwr_register (r := .flen) v (by decide) h,
    exec_hwr_register (r := .ftol) v (by decide) h, fun i => exec_hwr_register v (addr_key_ne_zero i) h,
    fun i => exec_hwr_register v (addr_frame_ne_zero i) h, hbound .vmin false, hbound .vmin true, hbound .vmax false,
    hbound .vmax true, hbound .imin false, hbound .imin true, hbound .imax false, hbound .imax true,
    hbound .emax false, hbound .emax true, hbound .pmax false, hbound .pmax true⟩

/-- Settles O55: CHK by the check of the frame, every other stage by its effect. -/
theorem stagesFollowTheTable : Obligations.StagesFollowTheTable := by
  intro s hb h8 h0 hs
  rw [step_of_schedule_nil hs, sequencerTurn_of_busy hb]
  by_cases h1 : s.stage = 1
  · rw [sequencerStep_chk s h1, if_pos h1]
    by_cases hacc : FrameAccepted s
    · exact ⟨_, exec_chkFrm_accepted hacc, (if_pos hacc).symm⟩
    · exact ⟨_, exec_chkFrm_rejected hacc, (if_neg hacc).symm⟩
  · obtain ⟨t, ht, e⟩ := sequencerStep_effect h0 h8
    exact ⟨t, ht, (e.stage_eq h1).trans (if_neg h1).symm⟩

/-- Settles O56: every turn of the sequencer moves a frame in flight one stage on, and none is past FIN. -/
theorem everyFrameIsDoneWithinEightSteps : Obligations.EveryFrameIsDoneWithinEightSteps := by
  intro s hok hb
  have hpast : DoneOrPast 1 s := doneOrPast_of_busy hok hb
  refine ⟨fun hs => ?_, fun gaps hlen hgaps => hpast.waitDone (by omega) hgaps⟩
  obtain ⟨t, ht, hend⟩ := hpast.runSteps hs 8
  have hd := hend.done (by decide)
  exact ⟨8, t, by decide, by decide, ht, hd, hend.stage_eq_zero hd⟩

/-- Settles O57: CHK and FIN, from the state START leaves. -/
theorem rejectedFrameLeavesNoReading : Obligations.RejectedFrameLeavesNoReading := by
  intro s hr hs hacc
  exact ⟨rejected s, runSteps_rejected hr hs hacc 0, perFrameZero_startEffect { s with schedule := [] }, rfl,
    startEffect_ready { s with schedule := [] },
    ⟨rfl, rfl, rfl, rfl, rfl, rfl, rfl, rfl, rfl, rfl, rfl⟩, rejected_status s⟩

/-- Settles O58: CHK to DEC decrypt the block, UNP to FIN read it. -/
theorem acceptedFrameGivesItsReading : Obligations.AcceptedFrameGivesItsReading := by
  intro s hr hs hacc
  obtain ⟨t, ht, hread⟩ := runSteps_accepted hr hs hacc
  obtain ⟨hdone, haccept, hrej⟩ := hread.done_accept_rej
  have hreading := hread.reading
  obtain ⟨_, _, _, _, _, _, _, rfl⟩ := hread.frame
  exact ⟨_, ht, startEffect_ready { s with schedule := [] }, hdone, haccept, hrej, rfl,
    ⟨rfl, rfl, rfl, rfl, rfl, rfl, rfl, rfl, rfl, rfl, rfl⟩, rfl, rfl, rfl, hreading⟩

/-- Settles O59: both frames are rejected with the same cause, or both end with the reading of the same block. -/
theorem unreadAndStaleBytesReachNoResult : Obligations.UnreadAndStaleBytesReachNoResult := by
  intro s s' hr hr' hs hs' hcfg hflen hftol hkey hbound hframe
  have h : SameRead s s' := ⟨hcfg, hflen, hftol, hkey, hbound, hframe⟩
  by_cases hacc : FrameAccepted s
  · obtain ⟨t, ht, hread⟩ := runSteps_accepted hr hs hacc
    obtain ⟨t', ht', hread'⟩ := runSteps_accepted hr' hs' (h.frameAccepted_iff.mpr hacc)
    obtain ⟨hiv, hcblk, hdblk⟩ := hread.blocks
    obtain ⟨hiv', hcblk', hdblk'⟩ := hread'.blocks
    refine ⟨t, t', ht, ht', ?_, ?_, ?_, ?_, ?_⟩
    · rw [hread'.reading, hread.reading, h.expectedReading_eq]
    · rw [hread'.status, hread.status, h.expectedReading_eq]
    · exact hiv'.trans (h.ivOf_eq.trans hiv.symm)
    · exact hcblk'.trans (h.cipherBlockOf_eq.trans hcblk.symm)
    · exact hdblk'.trans (h.decryptedBlock_eq.trans hdblk.symm)
  · refine ⟨rejected s, rejected s', runSteps_rejected hr hs hacc 6,
      runSteps_rejected hr' hs' (mt h.frameAccepted_iff.mp hacc) 6, readingOf_rejected_congr h.causeOf_eq, ?_, rfl, rfl,
      rfl⟩
    rw [rejected_status, rejected_status, h.lengthOf_eq]

/-- Settles O9: the sequencer's turn is nothing without a step, whether scheduled or not. -/
theorem idleSequencerChangesNothing : Obligations.IdleSequencerChangesNothing :=
  fun s h => ⟨fun hs => (step_of_schedule_nil hs).trans (sequencerTurn_of_idle h),
    fun rest hs => (step_of_schedule_cons hs).trans (sequencerTurn_of_idle (s := { s with schedule := rest }) h)⟩

/-- Settles O16. -/
theorem startClearsThePerFrameState : Obligations.StartClearsThePerFrameState :=
  fun _ _ hv hr => ⟨congrArg Host.Outcome.next (hostWrite_start hv hr), rfl⟩

/-- Settles O17. -/
theorem releaseClearsReadyAndDone : Obligations.ReleaseClearsReadyAndDone :=
  fun _ _ => ⟨fun hv hr hd => ⟨congrArg Host.Outcome.next (hostWrite_release hv hr hd), rfl⟩,
    fun hv hr => congrArg Host.Outcome.next (hostWrite_ctrl_one_ready hv hr),
    fun hv hr => congrArg Host.Outcome.next (hostWrite_ctrl_zero_not_done hv (.inl hr)),
    fun hv _ hd => congrArg Host.Outcome.next (hostWrite_ctrl_zero_not_done hv (.inr hd))⟩

/-- Settles O22: a frame passes the check, or is rejected with the first cause that applies. -/
theorem chkfrmAcceptsOrRejects : Obligations.ChkfrmAcceptsOrRejects := by
  intro s
  by_cases h : FrameAccepted s
  · obtain ⟨hmin, hmax, hmarker⟩ := h
    refine ⟨_, exec_chkFrm_accepted ⟨hmin, hmax, hmarker⟩, rfl, rfl, ?_⟩
    rw [if_neg (by omega), if_pos hmarker]
    exact ⟨rfl, rfl⟩
  · refine ⟨_, exec_chkFrm_rejected h, rfl, putPair_and _ _ (by decide) (by decide), ?_⟩
    have hrej : (raiseReject (causeOf s) s).rej = rejectCode (causeOf s) := State.setRej_rej s _
    rw [hrej, causeOf]
    split
    · exact ⟨rfl, rfl⟩
    · next hlen =>
      rw [if_neg fun hmarker => h ⟨by omega, by omega, hmarker⟩]
      exact ⟨rfl, rfl⟩

/-- Settles O23. -/
theorem genivTakesFrameBytesSevenAndEight : Obligations.GenivTakesFrameBytesSevenAndEight :=
  fun s => ⟨_, rfl, rfl, rfl, rfl, ivOf_getElem s.frame⟩

/-- Settles O24. -/
theorem ldblkCopiesAndZeroFills : Obligations.LdblkCopiesAndZeroFills := by
  refine fun s => ⟨_, rfl, rfl, fun i => ?_⟩
  rw [← frameLen_eq_lengthOf]
  exact Vector.getElem_ofFn i.isLt

/-- Settles O25. -/
theorem finMarksTheFrameDone : Obligations.FinMarksTheFrameDone := by
  refine fun s => ⟨_, exec_fin s, rfl, by simp [finEffect], by simp [finEffect], ?_⟩
  exact (putBit_and _ _ (by decide)).trans (putBit_and _ _ (by decide))

end Sys2Proof.Proofs
end

section
/-! PROOFS of the family 41_decryptor.md: the field GF(2^8) and the S-box over it, the steps of a round byte by byte, the
words of the key schedule, and DECR as a keystream XOR (R110 to R119). -/

namespace Sys2Proof.Machine

/-! ## GF(2^8) and the S-box (R115, R117) -/

/-- `a^(2^(n+1) - 2)` in GF(2^8): with `b = a²` it is `b · b^(2^n - 2)`. -/
def gfPowPred : Nat → Byte → Byte
  | 0, _ => 1
  | n + 1, a => gfMul (gfMul a a) (gfPowPred n (gfMul a a))

/-- The multiplicative inverse `a^254`: the field has 255 elements other than 0, so `a^255 = 1`. -/
def gfInv (a : Byte) : Byte := gfPowPred 7 a

theorem gfMul_gfInv : ∀ a : Byte, a ≠ 0 → gfMul a (gfInv a) = 1 := by decide +kernel

/-- The table of R115 is the affine image of the inverse, at 0 too, where `0^254 = 0`. -/
theorem sbox_eq_sboxAffine_gfInv : ∀ a : Byte, sbox a = sboxAffine (gfInv a) := by decide +kernel

theorem gfInv_zero : gfInv 0 = 0 := by decide +kernel

theorem gfMul_two : ∀ a : Byte, gfMul 2 a = xtime a := by decide +kernel

theorem gfMul_three : ∀ a : Byte, gfMul 3 a = times3 a := by decide +kernel

/-- `RCON[m + 1] = x^m` (R119). -/
theorem rcon_eq_xtimes : ∀ m < 10, rcon.getD m 0 = xtimes m 1 := by decide

/-! ## The steps of a round, byte by byte -/

theorem subBytes_getElem (s : Block) (i : Fin 16) : (subBytes s)[i] = sbox s[i] :=
  Vector.getElem_ofFn i.isLt

theorem xorBlock_getElem (a b : Block) (i : Fin 16) : (xorBlock a b)[i] = a[i] ^^^ b[i] :=
  Vector.getElem_ofFn i.isLt

theorem xorColumn_getElem (a b : Column) (i : Fin 4) : (xorColumn a b)[i] = a[i] ^^^ b[i] :=
  Vector.getElem_ofFn i.isLt

/-- The XOR of R110 undoes itself. -/
theorem xorBlock_xorBlock_self (a b : Block) : xorBlock (xorBlock a b) b = a := by
  refine Vector.ext fun i hi => ?_
  have hbyte : (xorBlock (xorBlock a b) b)[(⟨i, hi⟩ : Fin 16)] = a[(⟨i, hi⟩ : Fin 16)] := by
    rw [xorBlock_getElem, xorBlock_getElem, BitVec.xor_assoc, BitVec.xor_self, BitVec.xor_zero]
  exact hbyte

theorem shiftRows_getElem (s : Block) (r c : Fin 4) :
    (shiftRows s)[r.val + 4 * c.val]'(by omega) = s[r.val + 4 * ((c.val + r.val) % 4)]'(by omega) := by
  have hrow : (r.val + 4 * c.val) % 4 = r.val := by omega
  have hcol : (r.val + 4 * c.val) / 4 = c.val := by omega
  simp only [shiftRows, Vector.getElem_ofFn, hrow, hcol]

/-- Row `r` of a mixed column, indices mod 4, over GF(2^8). -/
theorem mixColumns_getElem (s : Block) (c r : Fin 4) :
    (mixColumns s)[4 * c.val + r.val]'(by omega) =
      gfMul 2 (s[4 * c.val + r.val]'(by omega)) ^^^ gfMul 3 (s[4 * c.val + (r.val + 1) % 4]'(by omega)) ^^^
        s[4 * c.val + (r.val + 2) % 4]'(by omega) ^^^ s[4 * c.val + (r.val + 3) % 4]'(by omega) := by
  have hcol : (4 * c.val + r.val) / 4 = c.val := by omega
  have hrow (k : Nat) : (4 * c.val + r.val + k) % 4 = (r.val + k) % 4 := by omega
  have hrow0 : (4 * c.val + r.val) % 4 = r.val := by omega
  simp only [mixColumns, Vector.getElem_ofFn, gfMul_two, gfMul_three, hcol, hrow, hrow0]

/-! ## The words of the key schedule (R119) -/

theorem keyWord_getElem (k : Block) (n j : Fin 4) : (keyWord k n)[j] = k[4 * n.val + j.val]'(by omega) :=
  Vector.getElem_ofFn j.isLt

/-- A block written as four words has them as its words. -/
theorem keyWord_append (w0 w1 w2 w3 : Column) (n : Fin 4) :
    keyWord (w0 ++ w1 ++ w2 ++ w3) n = #v[w0, w1, w2, w3][n] := by
  refine Vector.ext fun j hj => ?_
  have hbyte : (keyWord (w0 ++ w1 ++ w2 ++ w3) n)[j] = (w0 ++ w1 ++ w2 ++ w3)[4 * n.val + j]'(by omega) :=
    keyWord_getElem _ n ⟨j, hj⟩
  simp only [hbyte, Vector.getElem_append]
  match n with
  | 0 => simp [hj, show j < 8 by omega, show j < 12 by omega]
  | 1 => simp [show 4 + j < 8 by omega, show 4 + j < 12 by omega]
  | 2 => simp [show 8 + j < 12 by omega]
  | 3 => simp

/-- `t` for the first word of a round key: RotWord, SubWord and the round constant in byte 0. -/
theorem scheduleCore_getElem (rc : Byte) (t : Column) (j : Fin 4) :
    (scheduleCore rc t)[j] = sbox t[j + 1] ^^^ (if j = 0 then rc else 0) := by
  fin_cases j <;> simp [scheduleCore]

/-- The first word of a round key comes from the first and the last word of the one before. -/
theorem keyWord_nextRoundKey_zero (rc : Byte) (k : Block) :
    keyWord (nextRoundKey rc k) 0 = xorColumn (keyWord k 0) (scheduleCore rc (keyWord k 3)) :=
  keyWord_append _ _ _ _ 0

/-- Each later word comes from its own place in the round key before and from the word just made. -/
theorem keyWord_nextRoundKey_succ (rc : Byte) (k : Block) (n : Fin 3) :
    keyWord (nextRoundKey rc k) n.succ = xorColumn (keyWord k n.succ) (keyWord (nextRoundKey rc k) n.castSucc) := by
  simp only [nextRoundKey, keyWord_append]
  fin_cases n <;> rfl

/-- The schedule's word `w[4m + n]` is word `n` of `RK[m]`. -/
theorem scheduleByte_eq_keyWord (k : Block) {i m : Nat} {n : Fin 4} (hi : i = 4 * m + n.val) (j : Fin 4) :
    scheduleByte k i j = (keyWord (roundKey k m) n)[j] := by
  have hround : (4 * m + n.val) / 4 = m := by omega
  have hword : (4 * m + n.val) % 4 = n.val := by omega
  subst hi
  simp only [scheduleByte, keyWord_getElem, hround, hword]

theorem scheduleByte_round_start (k : Block) {m : Nat} (hm : m < 10) (j : Fin 4) :
    scheduleByte k (4 * (m + 1)) j =
      scheduleByte k (4 * m) j ^^^
        (sbox (scheduleByte k (4 * m + 3) (j + 1)) ^^^ (if j = 0 then xtimes m 1 else 0)) := by
  have hnew := scheduleByte_eq_keyWord k (m := m + 1) (n := 0) rfl j
  have hold := scheduleByte_eq_keyWord k (m := m) (n := 0) rfl j
  have hlast := scheduleByte_eq_keyWord k (m := m) (n := 3) rfl (j + 1)
  rw [roundKey, keyWord_nextRoundKey_zero, xorColumn_getElem, scheduleCore_getElem, rcon_eq_xtimes m hm, ← hold,
    ← hlast] at hnew
  exact hnew

theorem scheduleByte_in_round (k : Block) (m : Nat) (n : Fin 3) (j : Fin 4) :
    scheduleByte k (4 * (m + 1) + n.val + 1) j =
      scheduleByte k (4 * m + n.val + 1) j ^^^ scheduleByte k (4 * (m + 1) + n.val) j := by
  have hnew := scheduleByte_eq_keyWord k (m := m + 1) (n := n.succ) rfl j
  have hold := scheduleByte_eq_keyWord k (m := m) (n := n.succ) rfl j
  have hprev := scheduleByte_eq_keyWord k (m := m + 1) (n := n.castSucc) rfl j
  rw [roundKey, keyWord_nextRoundKey_succ, xorColumn_getElem, ← hold, ← roundKey, ← hprev] at hnew
  exact hnew

/-! ## DECR (R110) -/

/-- What DECR writes comes from KEY, IV and CBLK, not from the scratch state before it (R111). -/
theorem exec_decr (s : State) :
    exec .decr s = .next { s with
      scr := decryptScratch s.key s.iv
      dblk := xorBlock s.cblk (aes128Encrypt s.key s.iv)
      stage := 5 } := rfl

end Sys2Proof.Machine

namespace Sys2Proof.Proofs

open Sys2Proof.Machine

/-- Settles O26: the chain of cipher states is `cipherRounds`. -/
theorem decrXorsTheKeystream : Obligations.DecrXorsTheKeystream := by
  refine fun s => ⟨_, exec_decr s, rfl, fun i => xorBlock_getElem _ _ i, rfl, cipherRounds s.key s.iv,
    fun i => xorBlock_getElem _ _ i, fun r hr _ i => ?_, fun i => xorBlock_getElem _ _ i⟩
  cases r with
  | zero => omega
  | succ r => exact xorBlock_getElem _ _ i

/-- Settles O27: both runs make the same keystream, as KEY and IV stay. -/
theorem decrTwiceRestoresTheCipherBlock : Obligations.DecrTwiceRestoresTheCipherBlock :=
  fun s => ⟨_, _, exec_decr s, exec_decr _, xorBlock_xorBlock_self s.cblk (aes128Encrypt s.key s.iv)⟩

/-- Settles O28: the inverse of `a` is `a^254`. -/
theorem sboxIsTheAffineImageOfTheInverse : Obligations.SboxIsTheAffineImageOfTheInverse := by
  refine ⟨?_, fun a ha => ⟨gfInv a, gfMul_gfInv a ha, sbox_eq_sboxAffine_gfInv a⟩, subBytes_getElem⟩
  rw [sbox_eq_sboxAffine_gfInv, gfInv_zero]

/-- Settles O29. -/
theorem shiftRowsRotatesEachRow : Obligations.ShiftRowsRotatesEachRow := shiftRows_getElem

/-- Settles O30: R117 writes each row's four terms in the order of the column, `mixColumns` from the row itself on. -/
theorem mixColumnsMixesEachColumn : Obligations.MixColumnsMixesEachColumn := by
  intro s c a z
  have h0 : z 0 = gfMul 2 (a 0) ^^^ gfMul 3 (a 1) ^^^ a 2 ^^^ a 3 := mixColumns_getElem s c 0
  have h1 : z 1 = gfMul 2 (a 1) ^^^ gfMul 3 (a 2) ^^^ a 3 ^^^ a 0 := mixColumns_getElem s c 1
  have h2 : z 2 = gfMul 2 (a 2) ^^^ gfMul 3 (a 3) ^^^ a 0 ^^^ a 1 := mixColumns_getElem s c 2
  have h3 : z 3 = gfMul 2 (a 3) ^^^ gfMul 3 (a 0) ^^^ a 1 ^^^ a 2 := mixColumns_getElem s c 3
  exact ⟨h0, h1.trans (by ac_rfl), h2.trans (by ac_rfl), h3.trans (by ac_rfl)⟩

/-- Settles O31: word `i` is the first word of a round key, or follows another word of the same one. -/
theorem keyScheduleFollowsItsRecurrence : Obligations.KeyScheduleFollowsItsRecurrence := by
  refine fun k => ⟨fun i j => ?_, fun i hmin hmax j => ?_⟩
  · rw [scheduleByte_eq_keyWord k (m := 0) (n := i) (by omega), keyWord_getElem, roundKey]
  obtain ⟨m, hm⟩ : ∃ m, i / 4 = m + 1 := ⟨i / 4 - 1, by omega⟩
  split
  · next hstart =>
    obtain rfl : i = 4 * (m + 1) := by omega
    rw [hm]
    exact scheduleByte_round_start k (by omega) j
  · next hlater =>
    obtain ⟨n, rfl⟩ : ∃ n : Fin 3, i = 4 * (m + 1) + n.val + 1 := ⟨⟨i % 4 - 1, by omega⟩, by simp only; omega⟩
    rw [show 4 * (m + 1) + n.val + 1 - 4 = 4 * m + n.val + 1 by omega]
    exact scheduleByte_in_round k m n j

end Sys2Proof.Proofs
end

section
/-! PROOFS of the family 42_unpack_battery_monitor.md: what the unpack operations of this layout store, with
their "not available" patterns read byte by byte (R131 to R138). -/

namespace Sys2Proof.Machine

/-! ## Masks of a byte as numbers -/

theorem eq_ff_iff (b : Byte) : b = 0xFF ↔ b.toNat = 255 := BitVec.toNat_inj.symm

/-- The low `k` bits of a byte. -/
theorem and_lowMask_eq_iff (b v : Byte) {k : Nat} (hk : k ≤ 8) :
    b &&& BitVec.ofNat 8 (2 ^ k - 1) = v ↔ b.toNat % 2 ^ k = v.toNat := by
  have hpow : 2 ^ k ≤ 2 ^ 8 := Nat.pow_le_pow_right (by decide) hk
  have hmask : 2 ^ k - 1 < 2 ^ 8 := by omega
  rw [← BitVec.toNat_inj, BitVec.toNat_and, BitVec.toNat_ofNat, Nat.mod_eq_of_lt hmask,
    Nat.and_two_pow_sub_one_eq_mod]

theorem and_7f_eq_iff (b : Byte) : b &&& 0x7F = 0x7F ↔ b.toNat % 128 = 127 :=
  and_lowMask_eq_iff b 0x7F (k := 7) (by decide)

theorem and_0f_eq_iff (b : Byte) : b &&& 0x0F = 0x0F ↔ b.toNat % 16 = 15 :=
  and_lowMask_eq_iff b 0x0F (k := 4) (by decide)

theorem and_03_eq_iff (b v : Byte) : b &&& 0x03 = v ↔ b.toNat % 4 = v.toNat :=
  and_lowMask_eq_iff b v (k := 2) (by decide)

/-- The mask of the high bits is a shift there and back. -/
theorem and_fc_eq_iff (b : Byte) : b &&& 0xFC = 0xFC ↔ b.toNat / 4 = 63 := by
  have hshift : b &&& (0xFC : Byte) = b >>> 2 <<< 2 :=
    (BitVec.shiftLeft_ushiftRight (x := b) (n := 2)).symm
  rw [hshift]
  bv_omega

/-! ## The "not available" patterns, byte by byte (R69, R70) -/

theorem isSentinel_le16 (lo hi : Byte) : isSentinel 16 (le16 lo hi) = (lo == 0xFF && hi == 0xFF) := by
  have := lo.isLt
  have := hi.isLt
  rw [Bool.eq_iff_iff]
  simp only [isSentinel, le16, Bool.and_eq_true, beq_iff_eq, eq_ff_iff]
  omega

theorem isSignedSentinel_le16 (lo hi : Byte) :
    isSignedSentinel 16 (le16 lo hi) = (lo == 0xFF && hi &&& 0x7F == 0x7F) := by
  have := lo.isLt
  have := hi.isLt
  rw [Bool.eq_iff_iff]
  simp only [isSignedSentinel, le16, Bool.and_eq_true, beq_iff_eq, eq_ff_iff, and_7f_eq_iff]
  omega

theorem isSignedSentinel_rawBmIbat (d : Block) :
    isSignedSentinel 22 (rawBmIbat d) = (d[8] &&& 0xFC == 0xFC && d[9] == 0xFF && d[10] &&& 0x7F == 0x7F) := by
  have := block_bytes_lt d
  rw [Bool.eq_iff_iff]
  simp only [isSignedSentinel, rawBmIbat, Bool.and_eq_true, beq_iff_eq, eq_ff_iff, and_7f_eq_iff,
    and_fc_eq_iff]
  omega

theorem isSentinel_rawBmCons (d : Block) :
    isSentinel 20 (rawBmCons d) = (d[11] == 0xFF && d[12] == 0xFF && d[13] &&& 0x0F == 0x0F) := by
  have := block_bytes_lt d
  rw [Bool.eq_iff_iff]
  simp only [isSentinel, rawBmCons, Bool.and_eq_true, beq_iff_eq, eq_ff_iff, and_0f_eq_iff]
  omega

/-! ## Reading a field -/

theorem onlyBit_putBit (r : Byte) {i : Nat} (b : Bool) (hi : i < 8) : OnlyBit r (putBit r i b) i b :=
  ⟨by rw [putBit_getLsbD, if_pos ⟨rfl, hi⟩], fun _ hj => putBit_getLsbD_ne r b hj⟩

/-- A signed two-byte field is not available when its 15 magnitude bits are all ones (R70). -/
theorem unpackSigned_le16_unpacked {f : FieldSpec} {s : State} {lo hi : Byte} (hw : f.w = 16)
    (hraw : f.raw s.dblk = le16 lo hi) :
    Unpacked s (unpackSigned f s) f.reg (signed16 (le16 lo hi)) (lo != 0xFF || hi &&& 0x7F != 0x7F) := by
  have hu := unpackSigned_unpacked f s (by omega) (by omega)
  rwa [hw, hraw, tc16_eq, isSignedSentinel_le16, Bool.not_and] at hu

/-- An unsigned two-byte field is not available when all its bits are ones (R69). -/
theorem unpackUnsigned_le16_unpacked {f : FieldSpec} {s : State} {lo hi : Byte} (hw : f.w = 16)
    (hraw : f.raw s.dblk = le16 lo hi) :
    Unpacked s (unpackUnsigned f s) f.reg (le16 lo hi) (lo != 0xFF || hi != 0xFF) := by
  have hu := unpackUnsigned_unpacked f s (by omega)
  rwa [hw, hraw, isSentinel_le16, Bool.not_and] at hu

/-! ## The aux selector (R134, R135) -/

theorem putPair_extractLsb' {n : Nat} (r : BitVec n) {i : Nat} (v : BitVec 2) (hi : i + 1 < n) :
    (putPair r i v).extractLsb' i 2 = v := by
  apply BitVec.eq_of_getLsbD_eq
  intro j hj
  rw [BitVec.getLsbD_extractLsb', putPair_getLsbD]
  obtain rfl | rfl : j = 0 ∨ j = 1 := by omega
  · simp [show i < n by omega]
  · simp [hi]

theorem ofNat_rawAuxSel (d : Block) : BitVec.ofNat 2 (rawAuxSel d) = d[8].extractLsb' 0 2 := by
  apply BitVec.eq_of_toNat_eq
  rw [BitVec.toNat_ofNat, BitVec.extractLsb'_toNat, Nat.shiftRight_zero, rawAuxSel]
  exact Nat.mod_mod _ _

/-- The decoder picks the sub-form of BM.AUX by the two low bits of byte 8. -/
theorem auxForm_blockWord (d : Block) :
    auxForm (blockAux (blockWord d)) = if d[8] &&& 0x03 = 0 then .bmAux0 else if d[8] &&& 0x03 = 1 then .bmAux1
      else if d[8] &&& 0x03 = 2 then .bmAux2 else .bmAux3 := by
  have hsel : d[8].toNat % 4 = 0 ∨ d[8].toNat % 4 = 1 ∨ d[8].toNat % 4 = 2 ∨ d[8].toNat % 4 = 3 := by omega
  simp only [and_03_eq_iff]
  rw [auxForm, blockAux_blockWord, rawAuxSel]
  obtain h | h | h | h := hsel <;> rw [h] <;> rfl

/-! ## The state of charge (R138) -/

/-- The upper six bits of the field are byte 14's low nibble and the two bits above it. -/
theorem rawBmSoc_eq_nibbles (d : Block) :
    rawBmSoc d = d[13].toNat / 16 + 16 * (d[14].toNat % 16) + 256 * (d[14].toNat / 16 % 4) := by
  unfold rawBmSoc
  omega

theorem unpacked_socCount (s : State) (raw : Nat) :
    Unpacked s ((s.setX 6 (socCount raw)).setAvail 6 (raw != 1023)) 6 (if 1000 < raw then 9999 else raw)
      (raw != 1023) := by
  obtain ⟨lo, hi⟩ := (socCount_range raw).int32
  rw [← socCount_cast]
  exact unpacked_setX_setAvail s 6 _ lo hi

end Sys2Proof.Machine

namespace Sys2Proof.Proofs

open Sys2Proof.Machine

/-- Settles O34: the count is the raw value even where the pattern means infinite. -/
theorem bmTtgUnpacksTimeToGo : Obligations.BmTtgUnpacksTimeToGo := by
  intro s
  have hfield := unpackPlain_unpacked fieldBmTtg s (by decide)
  rw [fieldBmTtg_raw] at hfield
  refine ⟨_, rfl, hfield, ?_⟩
  rw [fieldBmTtg_raw, isSentinel_le16]
  exact onlyBit_putBit s.misc _ (by decide)

/-- Settles O35: the sign bit is not part of the sentinel. -/
theorem bmVbatUnpacksBatteryVoltage : Obligations.BmVbatUnpacksBatteryVoltage :=
  fun s => ⟨_, rfl, unpackSigned_le16_unpacked rfl (fieldBmVbat_raw s.dblk)⟩

/-- Settles O36. -/
theorem bmAlarmUnpacksTheAlarmMask : Obligations.BmAlarmUnpacksTheAlarmMask := by
  intro s
  have hfield := unpackPlain_unpacked fieldBmAlarm s (by decide)
  rw [fieldBmAlarm_raw] at hfield
  exact ⟨_, rfl, hfield⟩

/-- Settles O37. -/
theorem bmAuxselUnpacksTheSelector : Obligations.BmAuxselUnpacksTheSelector := by
  refine fun s => ⟨_, rfl, rfl, ?_, putPair_and s.misc _ (by decide) (by decide)⟩
  rw [auxSelector_eq, ofNat_rawAuxSel]
  exact putPair_extractLsb' s.misc _ (by decide)

/-- Settles O38: each sub-form reads bytes 6 and 7 its own way, sub-form 3 not at all. -/
theorem bmAuxUnpacksBySelector : Obligations.BmAuxUnpacksBySelector :=
  fun s => ⟨⟨_, rfl, unpackSigned_le16_unpacked rfl (fieldBmAuxVolt_raw s.dblk)⟩,
    ⟨_, rfl, unpackUnsigned_le16_unpacked rfl (fieldBmAuxVolt_raw s.dblk)⟩,
    ⟨_, rfl, unpackUnsigned_le16_unpacked rfl (fieldBmAuxKelvin_raw s.dblk)⟩,
    ⟨_, rfl, unpacked_setX_setAvail s 3 false (by decide) (by decide)⟩, auxForm_blockWord s.dblk⟩

/-- Settles O39: the field's low six bits are the upper bits of byte 8. -/
theorem bmIbatUnpacksBatteryCurrent : Obligations.BmIbatUnpacksBatteryCurrent := by
  intro s
  have hfield := unpackSigned_unpacked fieldBmIbat s (by decide) (by decide)
  rw [fieldBmIbat_raw, show fieldBmIbat.w = 22 from rfl, tc22_eq, isSignedSentinel_rawBmIbat, Bool.not_and,
    Bool.not_and] at hfield
  exact ⟨_, rfl, hfield⟩

/-- Settles O40. -/
theorem bmConsUnpacksConsumedCharge : Obligations.BmConsUnpacksConsumedCharge := by
  intro s
  have hfield := unpackUnsigned_unpacked fieldBmCons s (by decide)
  rw [fieldBmCons_raw, show fieldBmCons.w = 20 from rfl, isSentinel_rawBmCons, Bool.not_and, Bool.not_and] at hfield
  exact ⟨_, rfl, hfield⟩

/-- Settles O41: the count is clamped, and both flags look at the raw value. -/
theorem bmSocUnpacksAndClamps : Obligations.BmSocUnpacksAndClamps := by
  refine fun s => ⟨_, rfl, ?_⟩
  rw [fieldBmSoc_raw, rawBmSoc_eq_nibbles]
  exact ⟨unpacked_socCount s _, onlyBit_putBit s.misc _ (by decide)⟩

end Sys2Proof.Proofs
end

section
/-! PROOFS of the family 43_unpack_solar_controller.md: what the unpack operations of this layout store, with
their "not available" patterns read byte by byte (R151 to R157). -/

namespace Sys2Proof.Machine

/-- A field without sentinel, its raw value written from the bytes of the block. -/
theorem unpackPlain_unpacked_of_raw {f : FieldSpec} {s : State} {raw : Nat} (hw : f.w ≤ 31)
    (hraw : f.raw s.dblk = raw) : Unpacked s (unpackPlain f s) f.reg raw true :=
  hraw ▸ unpackPlain_unpacked f s hw

theorem and_01_eq_iff (b : Byte) : b &&& 0x01 = 0x01 ↔ b.toNat % 2 = 1 :=
  and_lowMask_eq_iff b 0x01 (k := 1) (by decide)

/-- The load current's pattern is byte 10 and its ninth bit, bit 0 of byte 11 (R69, R157). -/
theorem isSentinel_rawScIload (d : Block) :
    isSentinel 9 (rawScIload d) = (d[10] == 0xFF && d[11] &&& 0x01 == 0x01) := by
  have := block_bytes_lt d
  rw [Bool.eq_iff_iff]
  simp only [isSentinel, rawScIload, Bool.and_eq_true, beq_iff_eq, eq_ff_iff, and_01_eq_iff]
  omega

/-- The load current is stored from nine bits, and its flag looks at those nine only (R157). -/
theorem unpackUnsigned_fieldScIload_unpacked (s : State) :
    Unpacked s (unpackUnsigned fieldScIload s) 6 (rawScIload s.dblk)
      (s.dblk[10] != 0xFF || s.dblk[11] &&& 0x01 != 0x01) := by
  have hfield := unpackUnsigned_unpacked fieldScIload s (by decide)
  rwa [fieldScIload_raw, show fieldScIload.w = 9 from rfl, isSentinel_rawScIload, Bool.not_and] at hfield

end Sys2Proof.Machine

namespace Sys2Proof.Proofs

open Sys2Proof.Machine

/-- Settles O42: neither byte has a "not available" pattern. -/
theorem scStateAndErrUnpackTheirBytes : Obligations.ScStateAndErrUnpackTheirBytes :=
  fun s => ⟨⟨_, rfl, unpackPlain_unpacked_of_raw (by decide) (fieldScState_raw s.dblk)⟩,
    ⟨_, rfl, unpackPlain_unpacked_of_raw (by decide) (fieldScErr_raw s.dblk)⟩⟩

/-- Settles O43: the sign bit is not part of either sentinel. -/
theorem scVbatAndIbatUnpackSigned : Obligations.ScVbatAndIbatUnpackSigned :=
  fun s => ⟨⟨_, rfl, unpackSigned_le16_unpacked rfl (fieldScVbat_raw s.dblk)⟩,
    ⟨_, rfl, unpackSigned_le16_unpacked rfl (fieldScIbat_raw s.dblk)⟩⟩

/-- Settles O44: the two-byte fields share one rule, the load current has its own. -/
theorem scEdayPvIloadUnpackUnsigned : Obligations.ScEdayPvIloadUnpackUnsigned :=
  fun s => ⟨⟨_, rfl, unpackUnsigned_le16_unpacked rfl (fieldScEday_raw s.dblk)⟩,
    ⟨_, rfl, unpackUnsigned_le16_unpacked rfl (fieldScPv_raw s.dblk)⟩,
    ⟨_, rfl, unpackUnsigned_fieldScIload_unpacked s⟩⟩

end Sys2Proof.Proofs
end

section
/-! PROOFS of the family 44_code_tables.md: the alarm code of a mask with one bit and with more, and the flags of the
named states and error codes (R166, R168, R169). -/

namespace Sys2Proof.Machine

/-! ## The alarm code by the bits of the mask (R166) -/

theorem getLsbD_of_toNat_eq_two_pow {n k : Nat} {r : BitVec n} (h : r.toNat = 2 ^ k) (i : Nat) :
    r.getLsbD i = decide (i = k) := by
  rw [← BitVec.testBit_toNat, h, Nat.testBit_two_pow, decide_eq_decide]
  exact eq_comm

theorem popcount_le_one_of_toNat_eq_two_pow {n k : Nat} {r : BitVec n} (h : r.toNat = 2 ^ k) : popcount r ≤ 1 := by
  have hcount : popcount r = (List.range n).count k := List.countP_congr fun i _ => by
    rw [getLsbD_of_toNat_eq_two_pow h, decide_eq_true_iff, beq_iff_eq]
  rw [hcount]
  exact List.nodup_iff_count_le_one.mp List.nodup_range k

/-- A single bit is coded by its place, and places above 13 share one code. -/
theorem alarmCode_of_single_bit {a : Word32} {n : Nat} (h : a.toNat = 2 ^ n) :
    alarmCode a = if n ≤ 13 then BitVec.ofNat 8 (n + 1) else 16 := by
  have hne : a ≠ 0 := by
    rintro rfl
    exact (Nat.two_pow_pos n).ne h
  have hfew : ¬popcount a ≥ 2 := Nat.not_le.mpr (Nat.lt_succ_of_le (popcount_le_one_of_toNat_eq_two_pow h))
  rw [alarmCode, if_neg hne, if_neg hfew, h, Nat.log2_two_pow]

/-- Two bits are coded alike whichever they are, bits 14 and 15 included. -/
theorem alarmCode_of_two_bits {a : Word32} {i j : Nat} (hij : i < j) (hi : a.getLsbD i = true)
    (hj : a.getLsbD j = true) : alarmCode a = 15 := by
  have hne : a ≠ 0 := by
    rintro rfl
    rw [BitVec.ofNat_eq_ofNat, BitVec.getLsbD_zero] at hi
    cases hi
  have hmany : popcount a ≥ 2 := by
    by_contra hfew
    exact hij.ne (eq_of_popcount_le_one (by omega) hi hj)
  rw [alarmCode, if_neg hne, if_pos hmany]

end Sys2Proof.Machine

namespace Sys2Proof.Proofs

open Sys2Proof.Machine

/-- Settles O45: the code is that of no bit, of one bit by its place, or of several. -/
theorem almcodeCodesEveryMask : Obligations.AlmcodeCodesEveryMask := by
  refine fun s _ => ⟨_, rfl, rfl, fun hnone => ?_, fun n hn hone => ?_, fun hhigh => ?_, ?_⟩
  · have hzero : s.v[2] = 0 := BitVec.eq_of_toNat_eq hnone
    rw [hzero]
    rfl
  · rw [alarmCode_of_single_bit hone, if_pos hn, BitVec.toNat_ofNat]
    omega
  · obtain h14 | h15 := hhigh
    · exact alarmCode_of_single_bit h14
    · exact alarmCode_of_single_bit h15
  · rintro ⟨i, j, hij, hi, hj⟩
    exact alarmCode_of_two_bits hij hi hj

/-- Settles O46: each operation writes its own flag of MISC and nothing else, whatever the value. -/
theorem stcodeAndErcodeRecogniseNamedValues : Obligations.StcodeAndErcodeRecogniseNamedValues := by
  refine fun s => ⟨fun _ => ⟨_, rfl, rfl, ?_⟩, fun _ => ⟨_, rfl, rfl, ?_⟩⟩
  · have hnamed : s.x 0 ≤ 7 ↔ s.x 0 < 8 := Int.lt_add_one_iff.symm
    rw [State.setStKnown_misc, decide_eq_decide.mpr hnamed]
    exact onlyBit_putBit s.misc _ (by decide)
  · have hnamed : s.x 1 ≤ 8 ↔ s.x 1 < 9 := Int.lt_add_one_iff.symm
    rw [State.setErKnown_misc, decide_eq_decide.mpr hnamed]
    exact onlyBit_putBit s.misc _ (by decide)

end Sys2Proof.Proofs
end

section
/-! PROOFS of the family 45_range_classifier.md: which counts are duds, the one flag each operation writes, and the sum
of the flags against what is tolerated (R180 to R186). -/

namespace Sys2Proof.Machine

/-! ## The tests of a dud (R180, R183, R184) -/

theorem isRangeDud_eq_false_iff (available : Bool) (lo hi z : Int) :
    isRangeDud available lo hi z = false ↔ available = true ∧ lo ≤ z ∧ z ≤ hi := by
  rw [isRangeDud, Bool.or_eq_false_iff, Bool.or_eq_false_iff, Bool.not_eq_false', decide_eq_false_iff_not,
    decide_eq_false_iff_not, not_lt, not_lt, and_assoc]

theorem isCeilingDud_eq_false_iff (available : Bool) (hi z : Int) :
    isCeilingDud available hi z = false ↔ available = true ∧ z ≤ hi := by
  rw [isCeilingDud, Bool.or_eq_false_iff, Bool.not_eq_false', decide_eq_false_iff_not, not_lt]

/-! ## Marking a dud (R180) -/

theorem setDud_marked (s : State) (i : Fin 8) (b : Bool) : DudMarked s (s.setDud i b) i.val b :=
  ⟨rfl, onlyBit_putBit s.dudmask b i.isLt⟩

/-! ## DUDSUM (R186) -/

theorem popcount_eq_length_filter {n : Nat} (r : BitVec n) :
    popcount r = ((List.range n).filter fun i => r.getLsbD i).length :=
  List.countP_eq_length_filter

theorem exec_dudSum (s : State) : exec .dudSum s = .next (dudSumEffect s) := rfl

/-- DUDSUM writes the count, one bit of STATUS and `pc`. -/
theorem dudSumEffect_frame (s : State) :
    dudSumEffect s = { s with duds := (dudSumEffect s).duds, status := (dudSumEffect s).status, stage := 8 } := rfl

theorem toNat_duds_dudSumEffect {s : State} (h : s.dudmask &&& 0x83 = 0) :
    (dudSumEffect s).duds.toNat = popcount s.dudmask :=
  toNat_duds s.dudmask h

/-- SUPPRESS compares the whole count, not the three bits of DUDS, so this needs nothing of DUDMASK. -/
theorem onlyBit_status_dudSumEffect (s : State) :
    OnlyBit s.status (dudSumEffect s).status 4 (decide (s.toleratedDuds < popcount s.dudmask)) :=
  onlyBit_putBit s.status _ (by decide)

end Sys2Proof.Machine

namespace Sys2Proof.Proofs

open Sys2Proof.Machine

/-- Settles O47: the two operations share one test, on their own field and bounds. -/
theorem rngVAndRngIMarkDudsOutsideTheBounds : Obligations.RngVAndRngIMarkDudsOutsideTheBounds :=
  fun s => ⟨⟨_, _, rfl, setDud_marked s 2 _, isRangeDud_eq_false_iff _ _ _ _⟩,
    ⟨_, _, rfl, setDud_marked s 3 _, isRangeDud_eq_false_iff _ _ _ _⟩⟩

/-- Settles O48: the two operations share one test, on their own field and ceiling. -/
theorem rngEAndRngPMarkDudsAboveTheCeiling : Obligations.RngEAndRngPMarkDudsAboveTheCeiling :=
  fun s => ⟨⟨_, _, rfl, setDud_marked s 4 _, isCeilingDud_eq_false_iff _ _ _⟩,
    ⟨_, _, rfl, setDud_marked s 5 _, isCeilingDud_eq_false_iff _ _ _⟩⟩

/-- Settles O49: no count is looked at. -/
theorem rngLMarksAMissingLoadCurrent : Obligations.RngLMarksAMissingLoadCurrent := by
  refine fun s => ⟨_, _, rfl, setDud_marked s 6 _, ?_⟩
  rw [Bool.and_eq_true, Bool.not_eq_true', State.loadSup]

/-- Settles O50: the premise on DUDMASK is what lets three bits hold the count. -/
theorem dudsumCountsAndSuppresses : Obligations.DudsumCountsAndSuppresses := by
  intro s hmask
  refine ⟨_, exec_dudSum s, dudSumEffect_frame s, ?_⟩
  rw [← popcount_eq_length_filter, ← toleratedDuds_eq]
  exact ⟨toNat_duds_dudSumEffect hmask, onlyBit_status_dudSumEffect s⟩

end Sys2Proof.Proofs
end

section
/-! PROOFS of the family 70_reset_and_hazards.md: what the reset input's turn answers, and that the state before it does
not matter (R220). -/

namespace Sys2Proof.Machine

theorem takeTurn_reset (s : State) : takeTurn .reset s = .next (resetBlock s) := rfl

theorem resetBlock_schedule (s : State) : (resetBlock s).schedule = s.schedule := rfl

theorem step_of_reset_turn {s : State} {us : List Turn} (h : s.schedule = .reset :: us) :
    step s = .next (resetBlock { s with schedule := us }) := by
  rw [step_of_schedule_cons h, takeTurn_reset]

end Sys2Proof.Machine

namespace Sys2Proof.Proofs

open Sys2Proof.Machine

/-- Settles O2: the turn is taken out of the schedule before the reset, which leaves the others where they are. -/
theorem resetInputClearsTheBlockAtAnyTime : Obligations.ResetInputClearsTheBlockAtAnyTime :=
  fun s rest h =>
    ⟨resetBlock { s with schedule := rest }, step_of_reset_turn h, blockOf_resetBlock _, resetBlock_schedule _⟩

end Sys2Proof.Proofs
end
